-- ==== Sys2Proof/Word.lean ====
section
/-! DEFINITION. The word types of the core: a byte, a 16-bit word, a register index, a 12-bit address field. -/

namespace Sys2Proof

/-- A byte of memory or a general register (10_state.md R13, 20_memory.md R37). -/
abbrev Byte := BitVec 8

/-- A 16-bit word: an instruction word, `pc`, `I`, a stack entry (R16, R17, R19, R21). -/
abbrev Word := BitVec 16

/-- A 4-bit register index, the x or y field of an instruction word (R13, R53). -/
abbrev RegIdx := BitVec 4

/-- The 12-bit address field nnn (R52). -/
abbrev Addr12 := BitVec 12

end Sys2Proof
end

