-- ==== Sys2Proof/Config.lean ====
section
/-! DEFINITION. The fixed sizes (00_scope.md R6), the named parameters (R7), and the free values. -/

namespace Sys2Proof.Config

/-- The number of bytes of memory; the last address is `memSize - 1 = 0xFFF` (R6, R37). -/
abbrev memSize : Nat := 4096

/-- Where ROMs are loaded and where `pc` starts (R6, R33). -/
abbrev loadAddr : Nat := 0x200

/-- The longest ROM, `4096 - 0x200 = 3584` bytes (R6, R135). -/
abbrev romCapacity : Nat := memSize - loadAddr

/-- The number of font bytes: 16 glyphs of 5 bytes (R6, R34). -/
abbrev fontSize : Nat := 80

/-- The values `FONT_BASE` may take: exactly those with `FONT_BASE + 80 <= 0x200` (R7). -/
abbrev FontBase := Fin (loadAddr - fontSize + 1)

/-- The parameter `FLAG_ALIAS` (R7, R86): what 8xy4 to 8xyE do when a register operand is VF. -/
inductive FlagAlias where
  /-- Operands are read before any write, VF is written first and the destination last. -/
  | sampled
  /-- A model gives those steps no meaning. -/
  | refuse
  deriving DecidableEq, Repr

/-- The named parameters that R7 lets a model take as an argument. No step changes them. -/
structure Params where
  /-- `FONT_BASE`, where construct puts the font. -/
  fontBase : FontBase
  /-- `FONT_DATA`, the 80 font bytes. -/
  fontData : Vector Byte fontSize
  /-- `STRICT_LOW_NIBBLE`: whether 5xyn and 9xyn with n ≠ 0 are DecodeError (R59). -/
  strictLowNibble : Bool
  /-- `FLAG_ALIAS` (R86). -/
  flagAlias : FlagAlias
  deriving DecidableEq, Repr

/-- FREE VALUE (log entry 6): the byte that the n-th draw of a Cxkk answers (R7 `rnd`, R98: "any byte
0..255, a free input of the step"). It has no body, so a statement holds whatever it is. -/
opaque freeDraw : Nat → Byte

end Sys2Proof.Config
end

