-- ==== Sys2Proof/Machine/Defaults.lean ====
section
/-! DEFINITION. The default values of the named parameters (00_scope.md R7, 10_state.md R34). -/

namespace Sys2Proof.Machine

/-- `FONT_BASE`, default 0x000 (R7; log entry 2). -/
def defaultFontBase : Config.FontBase := 0

/-- `FONT_DATA`, default the table of R34, glyphs 0 to F, five rows each (log entry 3). -/
def defaultFontData : Vector Byte Config.fontSize :=
  #v[0xF0, 0x90, 0x90, 0x90, 0xF0,  -- 0
     0x20, 0x60, 0x20, 0x20, 0x70,  -- 1
     0xF0, 0x10, 0xF0, 0x80, 0xF0,  -- 2
     0xF0, 0x10, 0xF0, 0x10, 0xF0,  -- 3
     0x90, 0x90, 0xF0, 0x10, 0x10,  -- 4
     0xF0, 0x80, 0xF0, 0x10, 0xF0,  -- 5
     0xF0, 0x80, 0xF0, 0x90, 0xF0,  -- 6
     0xF0, 0x10, 0x20, 0x40, 0x40,  -- 7
     0xF0, 0x90, 0xF0, 0x90, 0xF0,  -- 8
     0xF0, 0x90, 0xF0, 0x10, 0xF0,  -- 9
     0xF0, 0x90, 0xF0, 0x90, 0x90,  -- A
     0xE0, 0x90, 0xE0, 0x90, 0xE0,  -- B
     0xF0, 0x80, 0x80, 0x80, 0xF0,  -- C
     0xE0, 0x90, 0x90, 0x90, 0xE0,  -- D
     0xF0, 0x80, 0xF0, 0x80, 0xF0,  -- E
     0xF0, 0x80, 0xF0, 0x80, 0x80]  -- F

/-- `STRICT_LOW_NIBBLE`, default true (R7, R59; log entry 4). -/
def defaultStrictLowNibble : Bool := true

/-- `FLAG_ALIAS`, default `sampled` (R7, R86; log entry 5). -/
def defaultFlagAlias : Config.FlagAlias := .sampled

/-- The defaults of R7 together. -/
def defaultParams : Config.Params :=
  { fontBase := defaultFontBase, fontData := defaultFontData
    strictLowNibble := defaultStrictLowNibble, flagAlias := defaultFlagAlias }

end Sys2Proof.Machine
end

