-- ==== Sys2Proof/Syntax.lean ====
section
/-! DEFINITION. The instructions: one constructor per row of spec/opcode_table.json, in its order. -/

namespace Sys2Proof

/-- An instruction. A field has the width the encoding gives it, so every term of this type is one the
encoding can hold (30_encoding.md R53: "every value of x and y is legal, F included"). -/
inductive Instr where
  /-- 00E0 `CLS` (R99). -/
  | cls
  /-- 00EE `RET` (R74). -/
  | ret
  /-- 1nnn `JP nnn` (R75). -/
  | jp (nnn : Addr12)
  /-- 2nnn `CALL nnn` (R76). -/
  | call (nnn : Addr12)
  /-- 3xkk `SE Vx, kk` (R79). -/
  | seByte (x : RegIdx) (kk : Byte)
  /-- 4xkk `SNE Vx, kk` (R80). -/
  | sneByte (x : RegIdx) (kk : Byte)
  /-- 5xy0 `SE Vx, Vy` (R81). -/
  | seReg (x y : RegIdx)
  /-- 6xkk `LD Vx, kk` (R87). -/
  | ldByte (x : RegIdx) (kk : Byte)
  /-- 7xkk `ADD Vx, kk` (R88). -/
  | addByte (x : RegIdx) (kk : Byte)
  /-- 8xy0 `LD Vx, Vy` (R89). -/
  | ldReg (x y : RegIdx)
  /-- 8xy1 `OR Vx, Vy` (R90). -/
  | orReg (x y : RegIdx)
  /-- 8xy2 `AND Vx, Vy` (R91). -/
  | andReg (x y : RegIdx)
  /-- 8xy3 `XOR Vx, Vy` (R92). -/
  | xorReg (x y : RegIdx)
  /-- 8xy4 `ADD Vx, Vy` (R93). -/
  | addReg (x y : RegIdx)
  /-- 8xy5 `SUB Vx, Vy` (R94). -/
  | subReg (x y : RegIdx)
  /-- 8xy6 `SHR Vx` (R95); y is encoded and ignored. -/
  | shr (x y : RegIdx)
  /-- 8xy7 `SUBN Vx, Vy` (R96). -/
  | subnReg (x y : RegIdx)
  /-- 8xyE `SHL Vx` (R97); y is encoded and ignored. -/
  | shl (x y : RegIdx)
  /-- 9xy0 `SNE Vx, Vy` (R82). -/
  | sneReg (x y : RegIdx)
  /-- Annn `LD I, nnn` (R104). -/
  | ldI (nnn : Addr12)
  /-- Bnnn `JP V0, nnn` (R77). -/
  | jpV0 (nnn : Addr12)
  /-- Cxkk `RND Vx, kk` (R98). -/
  | rnd (x : RegIdx) (kk : Byte)
  /-- Dxyn `DRW Vx, Vy, n` (R101). -/
  | drw (x y : RegIdx) (n : BitVec 4)
  /-- Ex9E `SKP Vx` (R83). -/
  | skp (x : RegIdx)
  /-- ExA1 `SKNP Vx` (R84). -/
  | sknp (x : RegIdx)
  /-- Fx07 `LD Vx, DT` (R110). -/
  | ldVxDt (x : RegIdx)
  /-- Fx0A `LD Vx, K` (R111). -/
  | ldVxK (x : RegIdx)
  /-- Fx15 `LD DT, Vx` (R112). -/
  | ldDtVx (x : RegIdx)
  /-- Fx18 `LD ST, Vx` (R113). -/
  | ldStVx (x : RegIdx)
  /-- Fx1E `ADD I, Vx` (R105). -/
  | addI (x : RegIdx)
  /-- Fx29 `LD F, Vx` (R106). -/
  | ldF (x : RegIdx)
  /-- Fx33 `LD B, Vx` (R107). -/
  | ldB (x : RegIdx)
  /-- Fx55 `LD [I], Vx` (R108). -/
  | ldMemVx (x : RegIdx)
  /-- Fx65 `LD Vx, [I]` (R109). -/
  | ldVxMem (x : RegIdx)
  deriving DecidableEq, Repr

end Sys2Proof
end

