-- ==== Sys2Proof/Decode.lean ====
section
/-! DEFINITION. The decoder (30_encoding.md R51 to R61), then the encoder from the same tables. -/

namespace Sys2Proof

/-- Why bytes are no instruction: the dispatch level that failed (R55 to R60). -/
inductive Illegal where
  /-- Fewer than two bytes (R51: a decoder always consumes exactly 2 bytes). -/
  | truncated
  /-- A class 0x0 word other than 00E0 and 00EE (R55). -/
  | class0Word
  /-- 5xyn or 9xyn with n ≠ 0 while `STRICT_LOW_NIBBLE` is true (R59). -/
  | lowNibbleNotZero
  /-- A class 0x8 low nibble with no sub-function (R56). -/
  | class8Nibble
  /-- A class 0xE low byte other than 9E and A1 (R57). -/
  | classEByte
  /-- A class 0xF low byte outside the table of R58. -/
  | classFByte
  deriving DecidableEq, Repr

/-- The class field, w[15:12] (R52). -/
def fieldClass (w : Word) : BitVec 4 := w.extractLsb' 12 4

/-- The x field, w[11:8] (R52). -/
def fieldX (w : Word) : RegIdx := w.extractLsb' 8 4

/-- The y field, w[7:4] (R52). -/
def fieldY (w : Word) : RegIdx := w.extractLsb' 4 4

/-- The n field, w[3:0] (R52). -/
def fieldN (w : Word) : BitVec 4 := w.extractLsb' 0 4

/-- The kk field, w[7:0] (R52). -/
def fieldKK (w : Word) : Byte := w.extractLsb' 0 8

/-- The nnn field, w[11:0] (R52). -/
def fieldNNN (w : Word) : Addr12 := w.extractLsb' 0 12

/-- Big-endian: the byte at the lower address is bits 15 to 8 (20_memory.md R40). -/
def wordOfBytes (hi lo : Byte) : Word := hi ++ lo

/-- The byte of a word that lies at the lower address (R40). -/
def highByte (w : Word) : Byte := w.extractLsb' 8 8

/-- The byte of a word that lies at the higher address (R40). -/
def lowByte (w : Word) : Byte := w.extractLsb' 0 8

/-- Class 0x0, on the whole word (R55). -/
def decodeClass0 (w : Word) : Except Illegal Instr :=
  if w = 0x00E0 then .ok .cls else if w = 0x00EE then .ok .ret else .error .class0Word

/-- Class 0x8, on the low nibble (R56). -/
def decodeClass8 (x y n : BitVec 4) : Except Illegal Instr :=
  if n = 0x0 then .ok (.ldReg x y)
  else if n = 0x1 then .ok (.orReg x y)
  else if n = 0x2 then .ok (.andReg x y)
  else if n = 0x3 then .ok (.xorReg x y)
  else if n = 0x4 then .ok (.addReg x y)
  else if n = 0x5 then .ok (.subReg x y)
  else if n = 0x6 then .ok (.shr x y)
  else if n = 0x7 then .ok (.subnReg x y)
  else if n = 0xE then .ok (.shl x y)
  else .error .class8Nibble

/-- Class 0xE, on the low byte (R57). -/
def decodeClassE (x : RegIdx) (kk : Byte) : Except Illegal Instr :=
  if kk = 0x9E then .ok (.skp x) else if kk = 0xA1 then .ok (.sknp x) else .error .classEByte

/-- Class 0xF, on the low byte (R58). -/
def decodeClassF (x : RegIdx) (kk : Byte) : Except Illegal Instr :=
  if kk = 0x07 then .ok (.ldVxDt x)
  else if kk = 0x0A then .ok (.ldVxK x)
  else if kk = 0x15 then .ok (.ldDtVx x)
  else if kk = 0x18 then .ok (.ldStVx x)
  else if kk = 0x1E then .ok (.addI x)
  else if kk = 0x29 then .ok (.ldF x)
  else if kk = 0x33 then .ok (.ldB x)
  else if kk = 0x55 then .ok (.ldMemVx x)
  else if kk = 0x65 then .ok (.ldVxMem x)
  else .error .classFByte

/-- A class whose low nibble must be zero when `strict` and is ignored otherwise (R59). -/
def decodeLowNibbleZero (strict : Bool) (n : BitVec 4) (i : Instr) : Except Illegal Instr :=
  if n = 0 then .ok i else if strict then .error .lowNibbleNotZero else .ok i

/-- The instruction that a word is, or the dispatch level at which it is none: the class first (R54),
then the second level of R55 to R59. `strict` is `STRICT_LOW_NIBBLE`. -/
def decode (strict : Bool) (w : Word) : Except Illegal Instr :=
  let c := fieldClass w
  let x := fieldX w
  let y := fieldY w
  if c = 0x0 then decodeClass0 w
  else if c = 0x1 then .ok (.jp (fieldNNN w))
  else if c = 0x2 then .ok (.call (fieldNNN w))
  else if c = 0x3 then .ok (.seByte x (fieldKK w))
  else if c = 0x4 then .ok (.sneByte x (fieldKK w))
  else if c = 0x5 then decodeLowNibbleZero strict (fieldN w) (.seReg x y)
  else if c = 0x6 then .ok (.ldByte x (fieldKK w))
  else if c = 0x7 then .ok (.addByte x (fieldKK w))
  else if c = 0x8 then decodeClass8 x y (fieldN w)
  else if c = 0x9 then decodeLowNibbleZero strict (fieldN w) (.sneReg x y)
  else if c = 0xA then .ok (.ldI (fieldNNN w))
  else if c = 0xB then .ok (.jpV0 (fieldNNN w))
  else if c = 0xC then .ok (.rnd x (fieldKK w))
  else if c = 0xD then .ok (.drw x y (fieldN w))
  else if c = 0xE then decodeClassE x (fieldKK w)
  else decodeClassF x (fieldKK w)

/-- The decoder on bytes in memory order: one instruction and the bytes after it (R51). -/
def decodeBytes (strict : Bool) : List Byte → Except Illegal (Instr × List Byte)
  | hi :: lo :: rest =>
    match decode strict (wordOfBytes hi lo) with
    | .ok i => .ok (i, rest)
    | .error e => .error e
  | _ => .error .truncated

/-- The word of an instruction, from the encoding tables of R54 to R58 (low nibble 0 for R59). -/
def encode : Instr → Word
  | .cls => 0x00E0
  | .ret => 0x00EE
  | .jp nnn => 0x1#4 ++ nnn
  | .call nnn => 0x2#4 ++ nnn
  | .seByte x kk => 0x3#4 ++ x ++ kk
  | .sneByte x kk => 0x4#4 ++ x ++ kk
  | .seReg x y => 0x5#4 ++ x ++ y ++ 0x0#4
  | .ldByte x kk => 0x6#4 ++ x ++ kk
  | .addByte x kk => 0x7#4 ++ x ++ kk
  | .ldReg x y => 0x8#4 ++ x ++ y ++ 0x0#4
  | .orReg x y => 0x8#4 ++ x ++ y ++ 0x1#4
  | .andReg x y => 0x8#4 ++ x ++ y ++ 0x2#4
  | .xorReg x y => 0x8#4 ++ x ++ y ++ 0x3#4
  | .addReg x y => 0x8#4 ++ x ++ y ++ 0x4#4
  | .subReg x y => 0x8#4 ++ x ++ y ++ 0x5#4
  | .shr x y => 0x8#4 ++ x ++ y ++ 0x6#4
  | .subnReg x y => 0x8#4 ++ x ++ y ++ 0x7#4
  | .shl x y => 0x8#4 ++ x ++ y ++ 0xE#4
  | .sneReg x y => 0x9#4 ++ x ++ y ++ 0x0#4
  | .ldI nnn => 0xA#4 ++ nnn
  | .jpV0 nnn => 0xB#4 ++ nnn
  | .rnd x kk => 0xC#4 ++ x ++ kk
  | .drw x y n => 0xD#4 ++ x ++ y ++ n
  | .skp x => 0xE#4 ++ x ++ 0x9E#8
  | .sknp x => 0xE#4 ++ x ++ 0xA1#8
  | .ldVxDt x => 0xF#4 ++ x ++ 0x07#8
  | .ldVxK x => 0xF#4 ++ x ++ 0x0A#8
  | .ldDtVx x => 0xF#4 ++ x ++ 0x15#8
  | .ldStVx x => 0xF#4 ++ x ++ 0x18#8
  | .addI x => 0xF#4 ++ x ++ 0x1E#8
  | .ldF x => 0xF#4 ++ x ++ 0x29#8
  | .ldB x => 0xF#4 ++ x ++ 0x33#8
  | .ldMemVx x => 0xF#4 ++ x ++ 0x55#8
  | .ldVxMem x => 0xF#4 ++ x ++ 0x65#8

/-- The two bytes of an instruction in memory order (R40). -/
def encodeBytes (i : Instr) : List Byte := [highByte (encode i), lowByte (encode i)]

/-- What the decoder reads from an instruction whose bits are `w`, numbered as spec/opcode_table.json
numbers them; every row has one 16-bit word, laid out big-endian, under the default parameters. -/
def decodeTableWord (_nbits w : Nat) : Option Instr :=
  let word := BitVec.ofNat 16 w
  match decodeBytes Machine.defaultStrictLowNibble [highByte word, lowByte word] with
  | .ok (i, _) => some i
  | .error _ => none

end Sys2Proof
end

