-- ==== Sys2Proof/Machine/Memory.lean ====
section
/-! DEFINITION. The 4096-byte memory (20_memory.md R37) as a canonical list of cells (log entry 8). -/

namespace Sys2Proof.Machine

/-- What a byte reads as that nothing has written since construct: `FONT_DATA` at `FONT_BASE` to
`FONT_BASE + 79`, and 0 everywhere else (10_state.md R29, R33). The outer test is R7's constraint
`FONT_BASE + 80 <= 0x200`, which puts the whole font below 0x200. -/
def Memory.resetByte (p : Config.Params) (a : Nat) : Byte :=
  if a < Config.loadAddr then
    if p.fontBase.val ≤ a then p.fontData.toList.getD (a - p.fontBase.val) 0 else 0
  else 0

/-- The byte a list of cells lists for an address, if it lists one. -/
def Memory.lookup : List Host.Cell → Nat → Option Byte
  | [], _ => none
  | c :: m, a => if c.1 = a then some c.2 else Memory.lookup m a

/-- The byte at an address (R37, R46: a read has no effect and none but this value). -/
def Memory.read (p : Config.Params) (m : List Host.Cell) (a : Nat) : Byte :=
  (Memory.lookup m a).getD (Memory.resetByte p a)

/-- List a cell at its place in the rising order, in the stead of an earlier cell of that address. -/
def Memory.insert : List Host.Cell → Nat → Byte → List Host.Cell
  | [], a, b => [(a, b)]
  | c :: m, a, b =>
    if a < c.1 then (a, b) :: c :: m
    else if a = c.1 then (a, b) :: m
    else c :: Memory.insert m a b

/-- Take an address out of the list. -/
def Memory.erase : List Host.Cell → Nat → List Host.Cell
  | [], _ => []
  | c :: m, a => if c.1 = a then Memory.erase m a else c :: Memory.erase m a

/-- Write one byte (R37, R47: any address, the font region included). Writing what an unlisted address
reads as takes the cell out, so that equal memories are equal lists. -/
def Memory.write (p : Config.Params) (m : List Host.Cell) (a : Nat) (b : Byte) : List Host.Cell :=
  if b = Memory.resetByte p a then Memory.erase m a else Memory.insert m a b

/-- Write bytes at rising addresses from `a` (R48). -/
def Memory.writeAll (p : Config.Params) (m : List Host.Cell) (a : Nat) : List Byte → List Host.Cell
  | [] => m
  | b :: bs => Memory.writeAll p (Memory.write p m a b) (a + 1) bs

/-- The `n` bytes at rising addresses from `a` (R48). -/
def Memory.readAll (p : Config.Params) (m : List Host.Cell) (a : Nat) : Nat → List Byte
  | 0 => []
  | n + 1 => Memory.read p m a :: Memory.readAll p m (a + 1) n

/-- Whether an access of `n` bytes at `a` is in bounds: `a + n - 1 <= 0xFFF` on unbounded naturals
(R43); an access of no bytes touches no address (R44, Dxyn with n = 0). -/
def Memory.inBounds (a n : Nat) : Bool := n = 0 || a + n - 1 ≤ 0xFFF

/-- The canonical form: addresses strictly rising, all below 4096, and no cell equal to what an unlisted
address reads as. -/
abbrev Memory.wf (p : Config.Params) (m : List Host.Cell) : Prop :=
  m.Pairwise (fun c d => c.1 < d.1) ∧ ∀ c ∈ m, c.1 < Config.memSize ∧ c.2 ≠ Memory.resetByte p c.1

end Sys2Proof.Machine
end

