-- ==== Sys2Proof/Machine/State.lean ====
section
/-! DEFINITION. The state of the core (10_state.md), its faults and refusals, and the reset state. -/

namespace Sys2Proof.Machine

/-- The frame buffer: 64 columns of 32 rows, `fb[x][y]`, true a lit pixel (R27). -/
abbrev FrameBuffer := Vector (Vector Bool 32) 64

/-- The whole state of the core (R13 to R29), and three fields of the model's own at the end. -/
structure State where
  /-- V0 to VF (R13); VF is the flag register (R15). -/
  v : Vector Byte 16
  /-- The index register I (R16). -/
  i : Word
  /-- The program counter (R17). -/
  pc : Word
  /-- The call stack (R19). -/
  stack : Vector Word 16
  /-- The number of stack entries in use, 0 to 16 (R20). -/
  sp : Fin 17
  /-- The last instruction word fetched (R21). -/
  opcode : Word
  /-- The draw-request flag (R22). -/
  drawRequest : Bool
  /-- The wait-for-key flag: true is WaitingForKey, false is Running (R23). -/
  waiting : Bool
  /-- The register that supply_key will write (R24). -/
  waitReg : RegIdx
  /-- The delay timer (R25). -/
  dt : Byte
  /-- The sound timer (R26). -/
  st : Byte
  /-- The frame buffer (R27). -/
  fb : FrameBuffer
  /-- The keypad: `keys[k]` true when key k is held (R28). -/
  keys : Vector Bool 16
  /-- The memory as a canonical list of cells (R29, R37). -/
  mem : List Host.Cell
  /-- MODEL'S OWN (log entry 1): the named parameters of R7, which no step changes. -/
  params : Config.Params
  /-- MODEL'S OWN (log entry 6): how many draws Cxkk has taken; it indexes `Config.freeDraw`. -/
  draws : Nat
  /-- MODEL'S OWN (log entry 7): how many beep events steps have emitted (60_exceptions.md R123). -/
  beeps : Nat
  deriving DecidableEq, Repr

/-- The cause of a BoundsError, one per row of 60_exceptions.md R116 (a tag: log entry 9). All are safe:
the step ends with the error the spec gives. -/
inductive BoundsCause where
  /-- The fetch, when `pc + 1 > 0xFFF` (R66). -/
  | fetch
  /-- 00EE with `sp = 0` (R74). -/
  | stackUnderflow
  /-- 2nnn with `sp = 16` (R76). -/
  | stackOverflow
  /-- Ex9E and ExA1 with `V[x] > 15` (R83, R84). -/
  | keypadIndex
  /-- Dxyn with `n > 0` and `I + n - 1 > 0xFFF` (R101). -/
  | spriteSource
  /-- Fx33 with `I + 2 > 0xFFF` (R107). -/
  | bcdTarget
  /-- Fx55 with `I + x > 0xFFF` (R108). -/
  | dumpTarget
  /-- Fx65 with `I + x > 0xFFF` (R109). -/
  | loadSource
  deriving DecidableEq, Repr

/-- The errors of a step (60_exceptions.md R114). The third kind, CapacityError, is a result of
load_rom only and stands in `HostReply`. -/
inductive Fault where
  /-- Raised by the step that fetches a word which is no instruction (R115). Safe: the spec's own error. -/
  | decodeError
  /-- Raised by the fetch or by the instruction that the cause names (R116). Safe: the spec's own error. -/
  | boundsError (cause : BoundsCause)
  deriving DecidableEq, Repr

/-- Why the model gives a step no meaning. -/
inductive Refusal where
  /-- Raised by an arm of `exec` whose instruction has no meaning yet; no arm does. Safe. -/
  | notModelled (mnemonic : String)
  /-- Raised by 8xy4, 8xy5, 8xy6, 8xy7 and 8xyE with VF among the register operands they read or write,
  only when `FLAG_ALIAS` is `refuse` (R86); the default is `sampled`, where they run. Safe. -/
  | flagAlias
  deriving DecidableEq, Repr

/-- What a meaning answers. -/
abbrev Result := Host.Outcome State Fault Refusal

/-- The state that construct gives under given parameters (70_reset_and_hazards.md R134, 10_state.md
R33). An empty list of cells is the font in its place and 0 elsewhere (`Memory.resetByte`). -/
def State.construct (p : Config.Params) : State :=
  { v := Vector.replicate 16 0
    i := 0
    pc := 0x200
    stack := Vector.replicate 16 0
    sp := 0
    opcode := 0
    drawRequest := false
    waiting := false
    waitReg := 0
    dt := 0
    st := 0
    fb := Vector.replicate 64 (Vector.replicate 32 false)
    keys := Vector.replicate 16 false
    mem := []
    params := p
    draws := 0
    beeps := 0 }

/-- The machine right after reset: construct under the default parameters of 00_scope.md R7. -/
def State.reset : State := State.construct defaultParams

end Sys2Proof.Machine
end

