-- ==== Sys2Proof/Machine/Ops.lean ====
section
/-! DEFINITION. The named operations over registers and memory, the fetch, the error entry, the tick. -/

namespace Sys2Proof.Machine

/-! ### One field each -/

/-- Read general register r (00_scope.md R9 `V[i]`). -/
def State.getV (s : State) (r : RegIdx) : Byte := s.v[r.toNat]'r.isLt

/-- Write general register r (R9 `V[i] <- v`). -/
def State.setV (s : State) (r : RegIdx) (b : Byte) : State :=
  { s with v := s.v.set r.toNat b r.isLt }

/-- The flag register's index: VF is register 15 (10_state.md R15). -/
def flagReg : RegIdx := 0xF

/-- `I <- w` (R16). -/
def State.setI (s : State) (w : Word) : State := { s with i := w }

/-- `pc <- w` (R17). -/
def State.setPc (s : State) (w : Word) : State := { s with pc := w }

/-- `opcode <- w` (R21). -/
def State.setOpcode (s : State) (w : Word) : State := { s with opcode := w }

/-- `dt <- b` (R25). -/
def State.setDt (s : State) (b : Byte) : State := { s with dt := b }

/-- `st <- b` (R26). -/
def State.setSt (s : State) (b : Byte) : State := { s with st := b }

/-- Replace the frame buffer (R27). -/
def State.setFb (s : State) (fb : FrameBuffer) : State := { s with fb := fb }

/-- `draw_request <- b` (R22). -/
def State.setDrawRequest (s : State) (b : Bool) : State := { s with drawRequest := b }

/-- `waiting <- b` (R23). -/
def State.setWaiting (s : State) (b : Bool) : State := { s with waiting := b }

/-- `wait_reg <- x` (R24). -/
def State.setWaitReg (s : State) (x : RegIdx) : State := { s with waitReg := x }

/-- `keys <- ks` (R28). -/
def State.setKeys (s : State) (ks : Vector Bool 16) : State := { s with keys := ks }

/-- Write a stack entry (R19). -/
def State.setStack (s : State) (k : Fin 16) (w : Word) : State :=
  { s with stack := s.stack.set k.val w k.isLt }

/-- `sp <- k` (R20). -/
def State.setSp (s : State) (k : Fin 17) : State := { s with sp := k }

/-- Take the next draw: the count goes up by one (R7 `draw(r)`, log entry 6). -/
def State.takeDraw (s : State) : State := { s with draws := s.draws + 1 }

/-! ### Memory -/

/-- The byte at an address (20_memory.md R37). -/
def State.byteAt (s : State) (a : Nat) : Byte := Memory.read s.params s.mem a

/-- The n bytes at rising addresses from a (R48). -/
def State.bytesAt (s : State) (a n : Nat) : List Byte := Memory.readAll s.params s.mem a n

/-- Store bytes at rising addresses from a (R48). -/
def State.storeBytes (s : State) (a : Nat) (bs : List Byte) : State :=
  { s with mem := Memory.writeAll s.params s.mem a bs }

/-- The bounds check that every access makes before anything is written (R43, R44). -/
def checkBounds (a n : Nat) (cause : BoundsCause) (k : Result) : Result :=
  if Memory.inBounds a n then k else .fault (.boundsError cause)

/-- Write registers `first`, `first + 1`, ... with the bytes of a list (46_index_memory.md R109). -/
def State.loadRegs (s : State) (first : Nat) : List Byte → State
  | [] => s
  | b :: bs => State.loadRegs (s.setV (BitVec.ofNat 4 first) b) (first + 1) bs

/-- The values of registers V0 to V[count - 1] (R108). -/
def State.dumpRegs (s : State) (count : Nat) : List Byte :=
  (List.range count).map fun k => s.getV (BitVec.ofNat 4 k)

/-! ### The call stack -/

/-- Push a return address and count it, or overflow when 16 are in use (41_control_flow.md R76). -/
def State.pushReturn (s : State) (k : State → Result) : Result :=
  if h : s.sp.val < 16 then
    k ((s.setStack ⟨s.sp.val, h⟩ s.pc).setSp ⟨s.sp.val + 1, Nat.succ_lt_succ h⟩)
  else .fault (.boundsError .stackOverflow)

/-- Pop the last return address, which stays in its entry, or underflow when none is in use (R74). -/
def State.popReturn (s : State) (k : Word → State → Result) : Result :=
  if h : 0 < s.sp.val then
    k (s.stack[s.sp.val - 1]'(by omega)) (s.setSp ⟨s.sp.val - 1, by omega⟩)
  else .fault (.boundsError .stackUnderflow)

/-! ### The keypad -/

/-- Whether the key numbered by a byte is held, or the error of an index above 15 (42_skips.md R83). -/
def State.keyHeld (s : State) (b : Byte) (k : Bool → Result) : Result :=
  if h : b.toNat < 16 then k (s.keys[b.toNat]) else .fault (.boundsError .keypadIndex)

/-! ### Skipping -/

/-- Skip the next word when a condition holds: a further 2 on the already-advanced pc (R78). -/
def State.skipIf (s : State) (c : Bool) : State := if c then s.setPc (s.pc + 2) else s

/-! ### Fetch, error entry, tick -/

/-- Whether the two bytes at pc are in memory (40_step_cycle.md R66). -/
def State.fetchInBounds (s : State) : Bool := Memory.inBounds s.pc.toNat 2

/-- The word at pc, big-endian (R66, 20_memory.md R40). -/
def State.fetchWord (s : State) : Word :=
  wordOfBytes (s.byteAt s.pc.toNat) (s.byteAt (s.pc.toNat + 1))

/-- The state after the fetch of w: `opcode <- w`, `pc <- pc + 2` (R66). -/
def State.fetched (s : State) (w : Word) : State := (s.setOpcode w).setPc (s.pc + 2)

/-- TAKING AN ERROR: the state after a step that raises DecodeError or an execution BoundsError is the
state before it with `opcode` the fetched word and `pc` the fetched address plus 2, and nothing else
changed: nothing is saved, no mode changes, there is no handler (60_exceptions.md R118; 40_step_cycle.md
R67, R71). There is no return from an error (R119). -/
def State.errorEntry (before : State) (w : Word) : State := before.fetched w

/-- Whether the tick of this state emits the beep event: `st = 1` before the decrement (R123). -/
def State.beepNow (s : State) : Bool := s.st = 1

/-- `if t > 0: t <- t - 1` (60_exceptions.md R122, R123). -/
def tickDown (t : Byte) : Byte := if t = 0 then 0 else t - 1

/-- The timer tick of a successful step (R122, R123); the beep event is counted (log entry 7). -/
def State.tick (s : State) : State :=
  { s with dt := tickDown s.dt, st := tickDown s.st, beeps := s.beeps + s.beepNow.toNat }

end Sys2Proof.Machine
end

