-- ==== Sys2Proof/Machine/Operands.lean ====
section
/-! DEFINITION. The operand forms: immediates, address fields, the I-indexed address, the font address. -/

namespace Sys2Proof.Machine

/-- nnn where it is written to pc or I: zero-extended to 16 bits (30_encoding.md R53). -/
def addrOperand (nnn : Addr12) : Word := nnn.setWidth 16

/-- A register's byte where it is added to a 16-bit value: zero-extended, all values unsigned (R8). -/
def wordOfByte (b : Byte) : Word := b.setWidth 16

/-- The effective address of byte k of a transfer indexed by I, on unbounded naturals
(46_index_memory.md R103, 20_memory.md R43). -/
def State.indexed (s : State) (k : Nat) : Nat := s.i.toNat + k

/-- How many registers V0 to V[x] are, the bound inclusive (46_index_memory.md R108). -/
def regCount (x : RegIdx) : Nat := x.toNat + 1

/-- The address of the glyph of a byte's low nibble: `FONT_BASE + 5 * (b & 0xF)` (R106). -/
def glyphAddr (p : Config.Params) (b : Byte) : Word :=
  BitVec.ofNat 16 (p.fontBase.val + 5 * (b &&& 0xF).toNat)

/-- The three decimal digits of a byte, hundreds first (R107). -/
def bcdDigits (b : Byte) : List Byte :=
  [BitVec.ofNat 8 (b.toNat / 100), BitVec.ofNat 8 (b.toNat / 10 % 10), BitVec.ofNat 8 (b.toNat % 10)]

end Sys2Proof.Machine
end

