-- ==== Sys2Proof/Machine/Flags.lean ====
section
/-! DEFINITION. Every flag computation (10_state.md R15, 43_alu.md) and the order of the two writes. -/

namespace Sys2Proof.Machine

/-- A flag as the byte VF takes: 1 or 0 (R15). -/
def flagByte (c : Bool) : Byte := if c then 1 else 0

/-- The carry of an addition: the unsigned sum exceeds 255 (R93). -/
def carryOut (a b : Byte) : Bool := a.toNat + b.toNat > 255

/-- NOT borrow of `a - b`: `a >= b`, equality counting as no borrow (R94, R96). -/
def noBorrow (a b : Byte) : Bool := a.toNat ≥ b.toNat

/-- The bit that a shift right by one loses: bit 0 (R95). -/
def shiftedOutRight (a : Byte) : Bool := a.getLsbD 0

/-- The bit that a shift left by one loses: bit 7 (R97). -/
def shiftedOutLeft (a : Byte) : Bool := a.getLsbD 7

/-- `FLAG_ALIAS`: when it is `refuse` and VF is among the register operands, no meaning (R86). -/
def State.guardAlias (s : State) (vfOperand : Bool) (k : Result) : Result :=
  if s.params.flagAlias = .refuse ∧ vfOperand then .refused .flagAlias else k

/-- Write the flag to VF first and the result to V[x] last, so that x = F ends with the result (R86). -/
def State.setFlagThen (s : State) (x : RegIdx) (flag : Bool) (result : Byte) : State :=
  (s.setV flagReg (flagByte flag)).setV x result

end Sys2Proof.Machine
end

