-- ==== Sys2Proof/Machine/Alu.lean ====
section
/-! DEFINITION. Register loads and the ALU, classes 6, 7 and 8 (43_alu.md). -/

namespace Sys2Proof.Machine

/-- 6xkk `LD Vx, kk` (R87). -/
def execLdByte (x : RegIdx) (kk : Byte) (s : State) : Result := .next (s.setV x kk)

/-- 7xkk `ADD Vx, kk` (R88): modulo 256, VF not written as a flag. -/
def execAddByte (x : RegIdx) (kk : Byte) (s : State) : Result := .next (s.setV x (s.getV x + kk))

/-- 8xy0 `LD Vx, Vy` (R89). -/
def execLdReg (x y : RegIdx) (s : State) : Result := .next (s.setV x (s.getV y))

/-- 8xy1 `OR Vx, Vy` (R90). -/
def execOrReg (x y : RegIdx) (s : State) : Result := .next (s.setV x (s.getV x ||| s.getV y))

/-- 8xy2 `AND Vx, Vy` (R91). -/
def execAndReg (x y : RegIdx) (s : State) : Result := .next (s.setV x (s.getV x &&& s.getV y))

/-- 8xy3 `XOR Vx, Vy` (R92). -/
def execXorReg (x y : RegIdx) (s : State) : Result := .next (s.setV x (s.getV x ^^^ s.getV y))

/-- 8xy4 `ADD Vx, Vy` (R93, R86). -/
def execAddReg (x y : RegIdx) (s : State) : Result :=
  let a := s.getV x
  let b := s.getV y
  s.guardAlias (x == flagReg || y == flagReg) (.next (s.setFlagThen x (carryOut a b) (a + b)))

/-- 8xy5 `SUB Vx, Vy` (R94, R86). -/
def execSubReg (x y : RegIdx) (s : State) : Result :=
  let a := s.getV x
  let b := s.getV y
  s.guardAlias (x == flagReg || y == flagReg) (.next (s.setFlagThen x (noBorrow a b) (a - b)))

/-- 8xy6 `SHR Vx` (R95, R86): y is not read. -/
def execShr (x _y : RegIdx) (s : State) : Result :=
  let a := s.getV x
  s.guardAlias (x == flagReg) (.next (s.setFlagThen x (shiftedOutRight a) (a >>> 1)))

/-- 8xy7 `SUBN Vx, Vy` (R96, R86). -/
def execSubnReg (x y : RegIdx) (s : State) : Result :=
  let a := s.getV x
  let b := s.getV y
  s.guardAlias (x == flagReg || y == flagReg) (.next (s.setFlagThen x (noBorrow b a) (b - a)))

/-- 8xyE `SHL Vx` (R97, R86): y is not read. -/
def execShl (x _y : RegIdx) (s : State) : Result :=
  let a := s.getV x
  s.guardAlias (x == flagReg) (.next (s.setFlagThen x (shiftedOutLeft a) (a <<< 1)))

end Sys2Proof.Machine
end

