-- ==== Sys2Proof/Machine/Control.lean ====
section
/-! DEFINITION. Control transfer: RET, JP, CALL, JP V0 (41_control_flow.md). -/

namespace Sys2Proof.Machine

/-- 00EE `RET` (R74). -/
def execRet (s : State) : Result := s.popReturn fun target t => .next (t.setPc target)

/-- 1nnn `JP nnn` (R75). -/
def execJp (nnn : Addr12) (s : State) : Result := .next (s.setPc (addrOperand nnn))

/-- 2nnn `CALL nnn` (R76): pc is already the CALL's address plus 2. -/
def execCall (nnn : Addr12) (s : State) : Result :=
  s.pushReturn fun t => .next (t.setPc (addrOperand nnn))

/-- Bnnn `JP V0, nnn` (R77): the sum is at most 0x10FE and not reduced. -/
def execJpV0 (nnn : Addr12) (s : State) : Result :=
  .next (s.setPc (addrOperand nnn + wordOfByte (s.getV 0)))

end Sys2Proof.Machine
end

