-- ==== Sys2Proof/Machine/Display.lean ====
section
/-! DEFINITION. The display: CLS, the sprite rasterizer and DRW (45_display.md). -/

namespace Sys2Proof.Machine

/-- `fb[x][y]` (10_state.md R27). -/
def pixelAt (fb : FrameBuffer) (x : Fin 64) (y : Fin 32) : Bool := fb[x][y]

/-- `fb[x][y] <- not fb[x][y]`. -/
def togglePixel (fb : FrameBuffer) (x : Fin 64) (y : Fin 32) : FrameBuffer :=
  fb.set x (fb[x].set y (!fb[x][y]))

/-- The column that bit b of a sprite row falls on: `(ox + b) mod 64` (R100). -/
def spriteColumn (ox : Byte) (b : Nat) : Fin 64 := ⟨(ox.toNat + b) % 64, Nat.mod_lt _ (by decide)⟩

/-- The row that row r of a sprite falls on: `(oy + r) mod 32` (R100). -/
def spriteRow (oy : Byte) (r : Nat) : Fin 32 := ⟨(oy.toNat + r) % 32, Nat.mod_lt _ (by decide)⟩

/-- XOR a set sprite bit into a pixel; an on pixel turned off is a collision (R100). -/
def plot (x : Fin 64) (y : Fin 32) (acc : FrameBuffer × Bool) : FrameBuffer × Bool :=
  (togglePixel acc.1 x y, acc.2 || pixelAt acc.1 x y)

/-- Draw bits `b`, `b + 1`, ..., `b + count - 1` of a sprite row, bit 0 the most significant (R100). -/
def drawBits (byte ox : Byte) (y : Fin 32) : Nat → Nat → FrameBuffer × Bool → FrameBuffer × Bool
  | _, 0, acc => acc
  | b, count + 1, acc =>
    drawBits byte ox y (b + 1) count
      (if byte.getLsbD (7 - b) then plot (spriteColumn ox b) y acc else acc)

/-- Draw the rows of a sprite from row r on (R100). -/
def drawRows (ox oy : Byte) : Nat → List Byte → FrameBuffer × Bool → FrameBuffer × Bool
  | _, [], acc => acc
  | r, byte :: rest, acc => drawRows ox oy (r + 1) rest (drawBits byte ox (spriteRow oy r) 0 8 acc)

/-- The rasterizer, a pure function (R100). -/
def drawSprite (fb : FrameBuffer) (bytes : List Byte) (ox oy : Byte) : FrameBuffer × Bool :=
  drawRows ox oy 0 bytes (fb, false)

/-- The frame buffer with every bit false (R99). -/
def blankScreen : FrameBuffer := Vector.replicate 64 (Vector.replicate 32 false)

/-- 00E0 `CLS` (R99). -/
def execCls (s : State) : Result := .next ((s.setFb blankScreen).setDrawRequest true)

/-- Dxyn `DRW Vx, Vy, n` (R101): the origin and the bytes are sampled before VF is reset. -/
def execDrw (x y : RegIdx) (n : BitVec 4) (s : State) : Result :=
  checkBounds (s.indexed 0) n.toNat .spriteSource
    (let drawn := drawSprite s.fb (s.bytesAt (s.indexed 0) n.toNat) (s.getV x) (s.getV y)
     .next (((s.setV flagReg (flagByte drawn.2)).setFb drawn.1).setDrawRequest true))

end Sys2Proof.Machine
end

