-- ==== Sys2Proof/Machine/IndexMemory.lean ====
section
/-! DEFINITION. The index register and memory instructions (46_index_memory.md). -/

namespace Sys2Proof.Machine

/-- Annn `LD I, nnn` (R104). -/
def execLdI (nnn : Addr12) (s : State) : Result := .next (s.setI (addrOperand nnn))

/-- Fx1E `ADD I, Vx` (R105): modulo 0x10000, VF not written. -/
def execAddI (x : RegIdx) (s : State) : Result := .next (s.setI (s.i + wordOfByte (s.getV x)))

/-- Fx29 `LD F, Vx` (R106). -/
def execLdF (x : RegIdx) (s : State) : Result := .next (s.setI (glyphAddr s.params (s.getV x)))

/-- Fx33 `LD B, Vx` (R107). -/
def execLdB (x : RegIdx) (s : State) : Result :=
  checkBounds (s.indexed 0) 3 .bcdTarget (.next (s.storeBytes (s.indexed 0) (bcdDigits (s.getV x))))

/-- Fx55 `LD [I], Vx` (R108): V0 to V[x] inclusive, I unchanged. -/
def execLdMemVx (x : RegIdx) (s : State) : Result :=
  checkBounds (s.indexed 0) (regCount x) .dumpTarget
    (.next (s.storeBytes (s.indexed 0) (s.dumpRegs (regCount x))))

/-- Fx65 `LD Vx, [I]` (R109): V0 to V[x] inclusive, I unchanged. -/
def execLdVxMem (x : RegIdx) (s : State) : Result :=
  checkBounds (s.indexed 0) (regCount x) .loadSource
    (.next (s.loadRegs 0 (s.bytesAt (s.indexed 0) (regCount x))))

end Sys2Proof.Machine
end

