-- ==== Sys2Proof/Machine/Random.lean ====
section
/-! DEFINITION. The random byte, RND (44_random.md). -/

namespace Sys2Proof.Machine

/-- Cxkk `RND Vx, kk` (R98): a fresh free byte under the mask. -/
def execRnd (x : RegIdx) (kk : Byte) (s : State) : Result :=
  .next (s.takeDraw.setV x (Config.freeDraw s.draws &&& kk))

end Sys2Proof.Machine
end

