-- ==== Sys2Proof/Machine/Skips.lean ====
section
/-! DEFINITION. Conditional skips: SE, SNE, SKP, SKNP (42_skips.md). -/

namespace Sys2Proof.Machine

/-- 3xkk `SE Vx, kk` (R79). -/
def execSeByte (x : RegIdx) (kk : Byte) (s : State) : Result := .next (s.skipIf (s.getV x == kk))

/-- 4xkk `SNE Vx, kk` (R80). -/
def execSneByte (x : RegIdx) (kk : Byte) (s : State) : Result := .next (s.skipIf (s.getV x != kk))

/-- 5xy0 `SE Vx, Vy` (R81). -/
def execSeReg (x y : RegIdx) (s : State) : Result := .next (s.skipIf (s.getV x == s.getV y))

/-- 9xy0 `SNE Vx, Vy` (R82). -/
def execSneReg (x y : RegIdx) (s : State) : Result := .next (s.skipIf (s.getV x != s.getV y))

/-- Ex9E `SKP Vx` (R83). -/
def execSkp (x : RegIdx) (s : State) : Result :=
  s.keyHeld (s.getV x) fun held => .next (s.skipIf held)

/-- ExA1 `SKNP Vx` (R84). -/
def execSknp (x : RegIdx) (s : State) : Result :=
  s.keyHeld (s.getV x) fun held => .next (s.skipIf (!held))

end Sys2Proof.Machine
end

