-- ==== Sys2Proof/Machine/TimersKeys.lean ====
section
/-! DEFINITION. Timer and key-wait instructions (47_timers_keys.md); the tick is `State.tick`. -/

namespace Sys2Proof.Machine

/-- Fx07 `LD Vx, DT` (R110): the value before this step's tick. -/
def execLdVxDt (x : RegIdx) (s : State) : Result := .next (s.setV x s.dt)

/-- Fx0A `LD Vx, K` (R111): suspend; `keys` is not read. -/
def execLdVxK (x : RegIdx) (s : State) : Result := .next ((s.setWaiting true).setWaitReg x)

/-- Fx15 `LD DT, Vx` (R112). -/
def execLdDtVx (x : RegIdx) (s : State) : Result := .next (s.setDt (s.getV x))

/-- Fx18 `LD ST, Vx` (R113). -/
def execLdStVx (x : RegIdx) (s : State) : Result := .next (s.setSt (s.getV x))

end Sys2Proof.Machine
end

