-- ==== Sys2Proof/Machine/Cycle.lean ====
section
/-! DEFINITION. The whole step as the host's call sees it (40_step_cycle.md R64 to R72). -/

namespace Sys2Proof.Machine

/-- What one call of step gives back, with the state after it (R64, R72). -/
inductive StepReturn where
  /-- `Ok(beep)`. -/
  | ok (beep : Bool) (after : State)
  /-- `Err(kind)`, with the state that the error leaves (60_exceptions.md R118). -/
  | err (fault : Fault) (after : State)
  /-- The model gives this step no meaning. -/
  | refused (why : Refusal)
  deriving DecidableEq, Repr

/-- End a step whose fetched instruction answered: commit and tick, or abort with only `opcode` and `pc`
changed (R68, R70, R71). `before` is the state before the fetch, `w` the word fetched. -/
def finishStep (before : State) (w : Word) : Result → StepReturn
  | .next t => .ok t.beepNow t.tick
  | .fault f => .err f (before.errorEntry w)
  | .refused r => .refused r

/-- Dispatch a fetched word: DecodeError, or the instruction run on the state after the fetch
(R67, R68). -/
def runWord (s : State) (w : Word) : StepReturn :=
  match decode s.params.strictLowNibble w with
  | .ok i => finishStep s w (exec i (s.fetched w))
  | .error _ => .err .decodeError (s.errorEntry w)

/-- One call of step (R72): the wait gate, the fetch bound, then the word at pc. -/
def stepCall (s : State) : StepReturn :=
  if s.waiting then .ok false s
  else if s.fetchInBounds then runWord s s.fetchWord
  else .err (.boundsError .fetch) s

/-- A call's outcome for a run: an error is the run's fault, and no meaning is given to later steps
(60_exceptions.md R119). -/
def StepReturn.outcome : StepReturn → Result
  | .ok _ t => .next t
  | .err f _ => .fault f
  | .refused r => .refused r

/-- Where the next step's fetch is made to succeed: not waiting, and pc at an address whose two bytes are
in memory (the entry point 0x200 when it is not) (log entry 10). -/
def State.readyToFetch (s : State) : State :=
  let t := s.setWaiting false
  if t.fetchInBounds then t else t.setPc 0x200

/-- A word stored big-endian at pc. -/
def State.placeWord (s : State) (w : Word) : State := s.storeBytes s.pc.toNat [highByte w, lowByte w]

end Sys2Proof.Machine
end

