-- ==== Sys2Proof/Machine/Step.lean ====
section
/-! DEFINITION. The step of the machine, and placing a word where the step fetches. -/

namespace Sys2Proof.Machine

/-- One step (40_step_cycle.md R72). -/
def step (s : State) : Host.Outcome State Fault Refusal := (stepCall s).outcome

/-- The state with an instruction whose bits are `w`, numbered as spec/opcode_table.json numbers them,
stored where the next step fetches. Every row of the table has one 16-bit word. -/
def State.withFetchWord (s : State) (_nbits w : Nat) : State :=
  s.readyToFetch.placeWord (BitVec.ofNat 16 w)

end Sys2Proof.Machine
end

