-- ==== Sys2Proof/WellFormed.lean ====
section
/-! DEFINITION. What is well formed: an instruction, an instruction word, a ROM, a key code. -/

namespace Sys2Proof

/-- Every term of `Instr` is well formed: its field types hold exactly the values the encoding admits
(R53: every value of x and y is legal, kk is any byte, nnn any 12 bits, n any nibble). -/
def Instr.wellFormed : Instr → Bool
  | .cls | .ret | .jp _ | .call _ | .seByte _ _ | .sneByte _ _ | .seReg _ _ | .ldByte _ _
  | .addByte _ _ | .ldReg _ _ | .orReg _ _ | .andReg _ _ | .xorReg _ _ | .addReg _ _ | .subReg _ _
  | .shr _ _ | .subnReg _ _ | .shl _ _ | .sneReg _ _ | .ldI _ | .jpV0 _ | .rnd _ _ | .drw _ _ _
  | .skp _ | .sknp _ | .ldVxDt _ | .ldVxK _ | .ldDtVx _ | .ldStVx _ | .addI _ | .ldF _ | .ldB _
  | .ldMemVx _ | .ldVxMem _ => true

/-- The words of R60's list of DecodeError words (`STRICT_LOW_NIBBLE` true), clause by clause. It is
written from that list and shares nothing with the decoder, which follows R54 to R59. -/
def illegalWord (w : Word) : Bool :=
  let hi := w.extractLsb' 12 4
  let n := w.extractLsb' 0 4
  let kk := w.extractLsb' 0 8
  (hi == 0x0 && !(w == 0x00E0 || w == 0x00EE)) ||
  (hi == 0x5 && n != 0) ||
  (hi == 0x8 && [0x8, 0x9, 0xA, 0xB, 0xC, 0xD, 0xF].contains n) ||
  (hi == 0x9 && n != 0) ||
  (hi == 0xE && !([0x9E, 0xA1].contains kk)) ||
  (hi == 0xF && !([0x07, 0x0A, 0x15, 0x18, 0x1E, 0x29, 0x33, 0x55, 0x65].contains kk))

/-- A word that is some instruction under the default `STRICT_LOW_NIBBLE` (R60). -/
def legalWord (w : Word) : Bool := !illegalWord w

/-- A ROM that load_rom accepts: at most 3584 bytes, the empty one and the full one included (R135). -/
def romWellFormed (bytes : List Byte) : Bool := bytes.length ≤ Config.romCapacity

/-- A key code that supply_key accepts: 0 to 15 (60_exceptions.md R128). -/
def keyWellFormed (k : Nat) : Bool := k ≤ 15

end Sys2Proof
end

