-- ==== Sys2Proof/Machine/HostOps.lean ====
section
/-! DEFINITION. The host operations (60_exceptions.md R127 to R130, 70_reset_and_hazards.md R134 to R136). -/

namespace Sys2Proof.Machine

/-- One move of the host (70_reset_and_hazards.md R142, one per row). -/
inductive HostOp where
  /-- construct() (R134). -/
  | construct
  /-- load_rom(bytes) (R135). -/
  | loadRom (bytes : List Byte)
  /-- step (40_step_cycle.md R64). -/
  | step
  /-- set_keypad(k0..k15) (60_exceptions.md R127). -/
  | setKeypad (ks : Vector Bool 16)
  /-- supply_key(k) (R128). -/
  | supplyKey (k : Nat)
  /-- acknowledge_draw() (R129). -/
  | acknowledgeDraw
  /-- Read `fb` (R130). -/
  | readFrameBuffer
  /-- Read `draw_request` (R130). -/
  | readDrawRequest
  /-- Read `waiting` (R130). -/
  | readWaiting
  deriving DecidableEq, Repr

/-- What the core gives back (70_reset_and_hazards.md R142). -/
inductive HostReply where
  /-- Success, nothing returned. -/
  | done
  /-- CapacityError: a ROM longer than 3584 bytes (60_exceptions.md R117). -/
  | capacityError
  /-- supply_key's rejection (R128). -/
  | rejected
  /-- step's `Ok(beep)`. -/
  | stepOk (beep : Bool)
  /-- step's `Err(kind)`. -/
  | stepErr (fault : Fault)
  /-- The model gives this step no meaning (43_alu.md R86 under `refuse`; log entry 43). -/
  | stepRefused (why : Refusal)
  /-- The frame buffer. -/
  | frameBuffer (fb : FrameBuffer)
  /-- A flag. -/
  | flag (b : Bool)
  deriving DecidableEq, Repr

/-- The state after a host operation, and what the host is given. -/
structure HostTurn where
  /-- The state after it. -/
  after : State
  /-- What the host is given. -/
  reply : HostReply
  deriving DecidableEq, Repr

/-- construct() while a VM exists: a fresh one (R134). It keeps what is fixed for the machine, the
parameters, and the count of draws, so that no draw is related to an earlier one (log entry 11). -/
def hostConstruct (s : State) : HostTurn :=
  ⟨{ State.construct s.params with draws := s.draws }, .done⟩

/-- load_rom(bytes) (R135, R136): memory from 0x200 on and nothing else, or CapacityError. -/
def hostLoadRom (bytes : List Byte) (s : State) : HostTurn :=
  if romWellFormed bytes then ⟨s.storeBytes Config.loadAddr bytes, .done⟩ else ⟨s, .capacityError⟩

/-- step as the host sees it. After an error the core keeps no error state and would run on from this
state (60_exceptions.md R119); `step` itself ends the run there (log entry 9). DESIGN CHOICE (log entry
43): R86 gives a step refused under `FLAG_ALIAS` = `refuse` no meaning; the host is told so and keeps the
state before the step, unfetched and unticked. -/
def hostStep (s : State) : HostTurn :=
  match stepCall s with
  | .ok beep t => ⟨t, .stepOk beep⟩
  | .err f t => ⟨t, .stepErr f⟩
  | .refused r => ⟨s, .stepRefused r⟩

/-- set_keypad (R127). -/
def hostSetKeypad (ks : Vector Bool 16) (s : State) : HostTurn := ⟨s.setKeys ks, .done⟩

/-- supply_key(k) (R128): only while waiting and only for a key 0 to 15; else rejected, no change. -/
def hostSupplyKey (k : Nat) (s : State) : HostTurn :=
  if s.waiting && keyWellFormed k then
    ⟨(s.setV s.waitReg (BitVec.ofNat 8 k)).setWaiting false, .done⟩
  else ⟨s, .rejected⟩

/-- acknowledge_draw() (R129). -/
def hostAcknowledgeDraw (s : State) : HostTurn := ⟨s.setDrawRequest false, .done⟩

/-- One move of the host: the state after it and the reply (R142). -/
def hostTurn (op : HostOp) (s : State) : HostTurn :=
  match op with
  | .construct => hostConstruct s
  | .loadRom bytes => hostLoadRom bytes s
  | .step => hostStep s
  | .setKeypad ks => hostSetKeypad ks s
  | .supplyKey k => hostSupplyKey k s
  | .acknowledgeDraw => hostAcknowledgeDraw s
  | .readFrameBuffer => ⟨s, .frameBuffer s.fb⟩
  | .readDrawRequest => ⟨s, .flag s.drawRequest⟩
  | .readWaiting => ⟨s, .flag s.waiting⟩

end Sys2Proof.Machine
end

