-- ==== Sys2Proof/Machine/RunEnd.lean ====
section
/-! DEFINITION. The end of a run, as a model's definition (70_reset_and_hazards.md R143). -/

namespace Sys2Proof.Machine

/-- Whether the instruction at pc is `1nnn` with `nnn = pc` (R143 a). A waiting core fetches nothing, and
a pc without two bytes in memory has no instruction. -/
def State.atSelfJump (s : State) : Bool :=
  s.fetchInBounds &&
    (match decode s.params.strictLowNibble s.fetchWord with
     | .ok (.jp nnn) => nnn.toNat = s.pc.toNat
     | _ => false)

/-- How a run stands after some steps (R143). -/
inductive RunStatus where
  /-- (a) A self-jump has been reached. -/
  | selfJump (s : State)
  /-- (b) A step returned an error; the state is the one the error leaves. -/
  | fault (f : Fault) (s : State)
  /-- (c) The core waits for a key. -/
  | waiting (s : State)
  /-- The model gives a step no meaning. -/
  | refused (r : Refusal)
  /-- None of these within the steps allowed. -/
  | running (s : State)
  deriving DecidableEq, Repr

/-- Run to the first end of R143, within a number of steps. -/
def runToEnd : Nat → State → RunStatus
  | fuel, s =>
    if s.waiting then .waiting s
    else if s.atSelfJump then .selfJump s
    else
      match fuel with
      | 0 => .running s
      | n + 1 =>
        match stepCall s with
        | .ok _ t => runToEnd n t
        | .err f t => .fault f t
        | .refused r => .refused r

end Sys2Proof.Machine
end

