-- ==== Sys2Proof/Safety.lean ====
section
/-! DEFINITION. The terms claims are stated in: the parts of the state, frames, the invariant, safe runs. -/

namespace Sys2Proof.Machine

/-- A smallest part of the spec's state (10_state.md R13 to R29). -/
inductive Part where
  /-- A general register. -/
  | reg (r : RegIdx)
  /-- The index register I. -/
  | index
  /-- The program counter. -/
  | pc
  /-- A stack entry. -/
  | stackEntry (k : Fin 16)
  /-- The stack pointer. -/
  | sp
  /-- The last word fetched. -/
  | opcode
  /-- The draw-request flag. -/
  | drawRequest
  /-- The wait-for-key flag. -/
  | waiting
  /-- The register that supply_key writes. -/
  | waitReg
  /-- The delay timer. -/
  | delayTimer
  /-- The sound timer. -/
  | soundTimer
  /-- A pixel, column then row. -/
  | pixel (x : Fin 64) (y : Fin 32)
  /-- A key. -/
  | key (k : Fin 16)
  /-- A byte of memory, as the model reads it. -/
  | byte (a : Nat)
  deriving DecidableEq, Repr

/-- Two states agree on a part. -/
def SameAt (s t : State) : Part → Prop
  | .reg r => t.getV r = s.getV r
  | .index => t.i = s.i
  | .pc => t.pc = s.pc
  | .stackEntry k => t.stack[k] = s.stack[k]
  | .sp => t.sp = s.sp
  | .opcode => t.opcode = s.opcode
  | .drawRequest => t.drawRequest = s.drawRequest
  | .waiting => t.waiting = s.waiting
  | .waitReg => t.waitReg = s.waitReg
  | .delayTimer => t.dt = s.dt
  | .soundTimer => t.st = s.st
  | .pixel x y => pixelAt t.fb x y = pixelAt s.fb x y
  | .key k => t.keys[k] = s.keys[k]
  | .byte a => t.byteAt a = s.byteAt a

/-- The frame: every part of the spec's state outside `may` is as it was, every byte of memory and every
pixel among them. -/
def ChangesOnly (s t : State) (may : Part → Prop) : Prop := ∀ p, ¬ may p → SameAt s t p

/-- The conditions under which 8xy4 to 8xyE have a meaning: `FLAG_ALIAS` is `sampled`, or no register
operand named here is VF (43_alu.md R86). -/
def FlagOpRuns (s : State) (operands : List RegIdx) : Prop :=
  s.params.flagAlias = .sampled ∨ flagReg ∉ operands

/-- The pixel a set bit of a sprite falls on (45_display.md R100). -/
def SpriteCovers (bytes : List Byte) (ox oy : Byte) (x : Fin 64) (y : Fin 32) : Prop :=
  ∃ r b, ∃ h : r < bytes.length, b < 8 ∧ bytes[r].getLsbD (7 - b) = true ∧
    x.val = (ox.toNat + b) % 64 ∧ y.val = (oy.toNat + r) % 32

/-- The invariant of 10_state.md R32 that the types do not already hold: pc is at most 0x10FE, every
stack entry is a pc that a fetch left (at most 0x1000, 92_eei_decisions.md D25), and memory is in its
canonical form, so it lists nothing outside 0x000 to 0xFFF. -/
abbrev State.Inv (s : State) : Prop :=
  s.pc.toNat ≤ 0x10FE ∧ (∀ k : Fin 16, s.stack[k].toNat ≤ 0x1000) ∧ Memory.wf s.params s.mem

/-- Change the state inside an answer, for comparing two runs. -/
def mapNext (f : State → State) : Result → Result
  | .next t => .next (f t)
  | .fault e => .fault e
  | .refused r => .refused r

/-- A run of host operations, from the left (00_scope.md R12). After a step that the model refuses it goes
on from the state before that step: DESIGN CHOICE, log entry 43. -/
def runHost : List HostOp → State → State
  | [], s => s
  | op :: ops, s => runHost ops (hostTurn op s).after

/-- A safe step: the step answers a next state, so there is no error and no refusal. -/
def StepSafe (s : State) : Prop := ∃ t, step s = .next t

end Sys2Proof.Machine
end

