-- ==== Sys2Proof/Certificates/Slice0/Obligations.lean ====
section
/-! DEFINITION. The statements for the provers, taken from the spec's numbered rules. -/

open Sys2Proof Sys2Proof.Machine

/-! ### Construct, reset and the host operations -/

/-- R33: after construction every field holds its reset value, memory the font and 0 elsewhere. Said of the
reset state, of construct under any parameters, and of construct while a VM exists. -/
def Obligations.ConstructGivesTheResetValues : Prop :=
  ∀ s : State,
    (s = State.reset ∨ (∃ p, s = State.construct p) ∨ ∃ s0, hostTurn .construct s0 = ⟨s, .done⟩) →
    (∀ r, s.getV r = 0) ∧ s.i = 0 ∧ s.pc = 0x200 ∧ s.sp = 0 ∧ (∀ k : Fin 16, s.stack[k] = 0) ∧
    s.opcode = 0 ∧ s.dt = 0 ∧ s.st = 0 ∧ (∀ x y, pixelAt s.fb x y = false) ∧
    s.drawRequest = false ∧ s.waiting = false ∧ s.waitReg = 0 ∧ (∀ k : Fin 16, s.keys[k] = false) ∧
    (∀ j, ∀ h : j < 80, s.byteAt (s.params.fontBase.val + j) = s.params.fontData[j]) ∧
    ∀ a, (a < s.params.fontBase.val ∨ s.params.fontBase.val + 80 ≤ a) → s.byteAt a = 0

/-- R135, R117: load_rom writes the ROM from 0x200 on and nothing else, or answers CapacityError and
changes nothing when the ROM is longer than 3584 bytes. -/
def Obligations.LoadRomWritesTheRomOrNothing : Prop :=
  ∀ (bytes : List Byte) (s : State),
    (3584 < bytes.length → hostTurn (.loadRom bytes) s = ⟨s, .capacityError⟩) ∧
    (bytes.length ≤ 3584 → ∃ t, hostTurn (.loadRom bytes) s = ⟨t, .done⟩ ∧
      (∀ j, ∀ h : j < bytes.length, t.byteAt (0x200 + j) = bytes[j]) ∧
      ChangesOnly s t fun p => ∃ a, p = .byte a ∧ 0x200 ≤ a ∧ a < 0x200 + bytes.length)

/-- R128: supply_key ends a pending wait with a key 0 to 15, and is rejected with no change otherwise. -/
def Obligations.SupplyKeyEndsAPendingWait : Prop :=
  ∀ (k : Nat) (s : State),
    (s.waiting = true → k ≤ 15 → ∃ t, hostTurn (.supplyKey k) s = ⟨t, .done⟩ ∧
      (t.getV s.waitReg).toNat = k ∧ t.waiting = false ∧
      ChangesOnly s t fun p => p = .reg s.waitReg ∨ p = .waiting) ∧
    ((s.waiting = false ∨ 15 < k) → hostTurn (.supplyKey k) s = ⟨s, .rejected⟩)

/-- R127, R129, R130: set_keypad replaces the keypad and nothing else, acknowledge_draw clears the
draw-request flag and nothing else, and the accessors change nothing. -/
def Obligations.HostOperationsTouchOnlyTheirField : Prop :=
  ∀ (ks : Vector Bool 16) (s : State),
    (∃ t, hostTurn (.setKeypad ks) s = ⟨t, .done⟩ ∧ t.keys = ks ∧
      ChangesOnly s t fun p => ∃ k, p = .key k) ∧
    (∃ t, hostTurn .acknowledgeDraw s = ⟨t, .done⟩ ∧ t.drawRequest = false ∧
      ChangesOnly s t fun p => p = .drawRequest) ∧
    hostTurn .readFrameBuffer s = ⟨s, .frameBuffer s.fb⟩ ∧
    hostTurn .readDrawRequest s = ⟨s, .flag s.drawRequest⟩ ∧
    hostTurn .readWaiting s = ⟨s, .flag s.waiting⟩

/-! ### Encoding -/

/-- Words written out from the encodings of R54 to R58 decode to the instructions they stand for: one of
every class, and the words that the source itself gives. -/
def Obligations.WordsWrittenFromTheSpecDecode : Prop :=
  decode true 0b0000000011100000 = .ok .cls ∧
  decode true 0b0001101010111100 = .ok (.jp 0xABC) ∧
  decode true 0b0011000101000010 = .ok (.seByte 0x1 0x42) ∧
  decode true 0b0111000111111111 = .ok (.addByte 0x1 0xFF) ∧
  decode true 0b1000000100100100 = .ok (.addReg 0x1 0x2) ∧
  decode true 0b1000000100101110 = .ok (.shl 0x1 0x2) ∧
  decode true 0b1010001000101010 = .ok (.ldI 0x22A) ∧
  decode true 0b1100000111110000 = .ok (.rnd 0x1 0xF0) ∧
  decode true 0b1101000100100101 = .ok (.drw 0x1 0x2 0x5) ∧
  decode true 0b1110001110011110 = .ok (.skp 0x3) ∧
  decode true 0b1111010100001010 = .ok (.ldVxK 0x5) ∧
  decode true 0b1111001001010101 = .ok (.ldMemVx 0x2)

/-- Decode and encode agree: for every instruction, with every operand at every value the encoding admits
and whatever `STRICT_LOW_NIBBLE` is, the word and the two bytes decode to it and nothing is left over. -/
def Obligations.DecodeOfEncodeIsTheInstruction : Prop :=
  ∀ (strict : Bool) (i : Instr) (rest : List Byte),
    decode strict (encode i) = .ok i ∧ decodeBytes strict (encodeBytes i ++ rest) = .ok (i, rest)

/-- Every legal word has one instruction and that instruction encodes back to it: no bit of a word is
dropped, the unused y of the shifts among them (`STRICT_LOW_NIBBLE` true). -/
def Obligations.EncodeOfDecodeIsTheWord : Prop :=
  ∀ (w : Word) (i : Instr), decode true w = .ok i → encode i = w

/-- The decoder rejects exactly the words that R60 lists, clause by clause, on the word as a number. Derived:
the list is the spec's own inference from R54 to R59. -/
def Obligations.DecoderRejectsExactlyTheListedWords : Prop :=
  ∀ w : Word, (∃ e, decode true w = .error e) ↔
    (w.toNat ≤ 0x0FFF ∧ w.toNat ≠ 0x00E0 ∧ w.toNat ≠ 0x00EE) ∨
    (w.toNat / 0x1000 = 0x5 ∧ w.toNat % 0x10 ≠ 0) ∨
    (w.toNat / 0x1000 = 0x8 ∧ w.toNat % 0x10 ∈ [0x8, 0x9, 0xA, 0xB, 0xC, 0xD, 0xF]) ∨
    (w.toNat / 0x1000 = 0x9 ∧ w.toNat % 0x10 ≠ 0) ∨
    (w.toNat / 0x1000 = 0xE ∧ w.toNat % 0x100 ∉ [0x9E, 0xA1]) ∨
    (w.toNat / 0x1000 = 0xF ∧
      w.toNat % 0x100 ∉ [0x07, 0x0A, 0x15, 0x18, 0x1E, 0x29, 0x33, 0x55, 0x65])

/-- R54 to R58, row by row of the opcode table: a word is an instruction exactly when its fixed bits are
that instruction's row, with the fields of R52 as operands. A word of no row is therefore no instruction. -/
def Obligations.DecoderFollowsTheOpcodeTable : Prop :=
  ∀ (w : Word) (x y n : BitVec 4) (kk : Byte) (nnn : Addr12) (i : Instr),
    x = w.extractLsb' 8 4 → y = w.extractLsb' 4 4 → n = w.extractLsb' 0 4 →
    kk = w.extractLsb' 0 8 → nnn = w.extractLsb' 0 12 →
    (decode true w = .ok i ↔
      (w &&& 0xFFFF = 0x00E0 ∧ i = .cls) ∨
      (w &&& 0xFFFF = 0x00EE ∧ i = .ret) ∨
      (w &&& 0xF000 = 0x1000 ∧ i = .jp nnn) ∨
      (w &&& 0xF000 = 0x2000 ∧ i = .call nnn) ∨
      (w &&& 0xF000 = 0x3000 ∧ i = .seByte x kk) ∨
      (w &&& 0xF000 = 0x4000 ∧ i = .sneByte x kk) ∨
      (w &&& 0xF00F = 0x5000 ∧ i = .seReg x y) ∨
      (w &&& 0xF000 = 0x6000 ∧ i = .ldByte x kk) ∨
      (w &&& 0xF000 = 0x7000 ∧ i = .addByte x kk) ∨
      (w &&& 0xF00F = 0x8000 ∧ i = .ldReg x y) ∨
      (w &&& 0xF00F = 0x8001 ∧ i = .orReg x y) ∨
      (w &&& 0xF00F = 0x8002 ∧ i = .andReg x y) ∨
      (w &&& 0xF00F = 0x8003 ∧ i = .xorReg x y) ∨
      (w &&& 0xF00F = 0x8004 ∧ i = .addReg x y) ∨
      (w &&& 0xF00F = 0x8005 ∧ i = .subReg x y) ∨
      (w &&& 0xF00F = 0x8006 ∧ i = .shr x y) ∨
      (w &&& 0xF00F = 0x8007 ∧ i = .subnReg x y) ∨
      (w &&& 0xF00F = 0x800E ∧ i = .shl x y) ∨
      (w &&& 0xF00F = 0x9000 ∧ i = .sneReg x y) ∨
      (w &&& 0xF000 = 0xA000 ∧ i = .ldI nnn) ∨
      (w &&& 0xF000 = 0xB000 ∧ i = .jpV0 nnn) ∨
      (w &&& 0xF000 = 0xC000 ∧ i = .rnd x kk) ∨
      (w &&& 0xF000 = 0xD000 ∧ i = .drw x y n) ∨
      (w &&& 0xF0FF = 0xE09E ∧ i = .skp x) ∨
      (w &&& 0xF0FF = 0xE0A1 ∧ i = .sknp x) ∨
      (w &&& 0xF0FF = 0xF007 ∧ i = .ldVxDt x) ∨
      (w &&& 0xF0FF = 0xF00A ∧ i = .ldVxK x) ∨
      (w &&& 0xF0FF = 0xF015 ∧ i = .ldDtVx x) ∨
      (w &&& 0xF0FF = 0xF018 ∧ i = .ldStVx x) ∨
      (w &&& 0xF0FF = 0xF01E ∧ i = .addI x) ∨
      (w &&& 0xF0FF = 0xF029 ∧ i = .ldF x) ∨
      (w &&& 0xF0FF = 0xF033 ∧ i = .ldB x) ∨
      (w &&& 0xF0FF = 0xF055 ∧ i = .ldMemVx x) ∨
      (w &&& 0xF0FF = 0xF065 ∧ i = .ldVxMem x))

/-- R59: in classes 5 and 9 the low nibble must be zero when `STRICT_LOW_NIBBLE` is true and is ignored
when it is false. -/
def Obligations.LowNibbleOfClasses5And9 : Prop :=
  ∀ (w : Word) (x y : RegIdx), x = w.extractLsb' 8 4 → y = w.extractLsb' 4 4 →
    (w.toNat / 0x1000 = 0x5 →
      decode false w = .ok (.seReg x y) ∧
      (w.toNat % 0x10 = 0 → decode true w = .ok (.seReg x y)) ∧
      (w.toNat % 0x10 ≠ 0 → ∃ e, decode true w = .error e)) ∧
    (w.toNat / 0x1000 = 0x9 →
      decode false w = .ok (.sneReg x y) ∧
      (w.toNat % 0x10 = 0 → decode true w = .ok (.sneReg x y)) ∧
      (w.toNat % 0x10 ≠ 0 → ∃ e, decode true w = .error e))

/-! ### The step -/

/-- A step runs the decoded instruction: when the core is not waiting and the two bytes at pc, which are in
memory, decode to i, the step is exec of i on the state with the word latched and pc past it, and a next
state is then ticked. -/
def Obligations.StepRunsTheDecodedInstruction : Prop :=
  ∀ (s : State) (i : Instr), s.waiting = false → s.pc.toNat + 1 ≤ 0xFFF →
    decodeBytes s.params.strictLowNibble [s.byteAt s.pc.toNat, s.byteAt (s.pc.toNat + 1)]
      = .ok (i, []) →
    step s =
      match exec i { s with
        opcode := s.byteAt s.pc.toNat ++ s.byteAt (s.pc.toNat + 1), pc := s.pc + 2 } with
      | .next t => .next t.tick
      | .fault f => .fault f
      | .refused r => .refused r

/-- R65, R66, R67, R68, R71, R72: the step as its pseudocode gives it, with the state each of its returns
leaves, `step` as the model's outcome of it, and what the host is given and goes on from (R64, R119, R142). -/
def Obligations.StepFollowsItsPseudocode : Prop :=
  ∀ s : State,
    (s.waiting = true →
      stepCall s = .ok false s ∧ step s = .next s ∧ hostTurn .step s = ⟨s, .stepOk false⟩) ∧
    (s.waiting = false → 0xFFF < s.pc.toNat + 1 →
      stepCall s = .err (.boundsError .fetch) s ∧ step s = .fault (.boundsError .fetch) ∧
      hostTurn .step s = ⟨s, .stepErr (.boundsError .fetch)⟩) ∧
    (s.waiting = false → s.pc.toNat + 1 ≤ 0xFFF → ∀ (w : Word) (f : State),
      w = s.byteAt s.pc.toNat ++ s.byteAt (s.pc.toNat + 1) →
      f = { s with opcode := w, pc := s.pc + 2 } →
      (∀ e, decode s.params.strictLowNibble w = .error e →
        stepCall s = .err .decodeError f ∧ step s = .fault .decodeError ∧
        hostTurn .step s = ⟨f, .stepErr .decodeError⟩) ∧
      (∀ i t, decode s.params.strictLowNibble w = .ok i → exec i f = .next t →
        stepCall s = .ok (decide (t.st = 1)) t.tick ∧ step s = .next t.tick ∧
        hostTurn .step s = ⟨t.tick, .stepOk (decide (t.st = 1))⟩) ∧
      (∀ i e, decode s.params.strictLowNibble w = .ok i → exec i f = .fault e →
        stepCall s = .err e f ∧ step s = .fault e ∧ hostTurn .step s = ⟨f, .stepErr e⟩))

/-- THE MODEL'S CHOICE (log entry 43): R86 gives a step refused under `FLAG_ALIAS` = `refuse` no meaning.
`step` answers the refusal, and the host is told of it and keeps the state before the step, unfetched. -/
def Obligations.RefusedStepIsReportedAndKeepsTheState : Prop :=
  ∀ (s : State) (i : Instr) (r : Refusal), s.waiting = false → s.pc.toNat + 1 ≤ 0xFFF →
    decode s.params.strictLowNibble (s.byteAt s.pc.toNat ++ s.byteAt (s.pc.toNat + 1)) = .ok i →
    exec i (s.fetched (s.byteAt s.pc.toNat ++ s.byteAt (s.pc.toNat + 1))) = .refused r →
    step s = .refused r ∧ hostTurn .step s = ⟨s, .stepRefused r⟩

/-- R122, R123: a successful step that executed an instruction ticks both timers down by one with a floor of
0 after the instruction, and returns the beep exactly when the sound timer was 1 before the decrement; a
waiting step ticks nothing and emits none. -/
def Obligations.SuccessfulStepTicksTheTimers : Prop :=
  ∀ (s s' : State) (beep : Bool), stepCall s = .ok beep s' →
    (s.waiting = true → beep = false ∧ s' = s) ∧
    (s.waiting = false → ∃ i t, decode s.params.strictLowNibble s.fetchWord = .ok i ∧
      exec i (s.fetched s.fetchWord) = .next t ∧
      s'.dt.toNat = t.dt.toNat - 1 ∧ s'.st.toNat = t.st.toNat - 1 ∧
      (beep = true ↔ t.st.toNat = 1) ∧
      ChangesOnly t s' fun p => p = .delayTimer ∨ p = .soundTimer)

/-- R71, R118: a failing step leaves the whole state unchanged but `opcode` and `pc`, which hold the fetched
word and the advanced pc; the step whose fetch is out of bounds leaves those unchanged too. -/
def Obligations.FailingStepChangesOnlyOpcodeAndPc : Prop :=
  ∀ (s s' : State) (f : Fault), stepCall s = .err f s' →
    (ChangesOnly s s' fun p => p = .opcode ∨ p = .pc) ∧
    (f = .boundsError .fetch → s' = s) ∧
    (f ≠ .boundsError .fetch →
      s'.opcode = s.byteAt s.pc.toNat ++ s.byteAt (s.pc.toNat + 1) ∧ s'.pc = s.pc + 2)

/-- R116: each cause of a BoundsError is raised by the named instruction on the named condition and by
nothing else; no instruction raises a DecodeError; the fetch raises its own. -/
def Obligations.BoundsErrorsHaveExactlyTheListedCauses : Prop :=
  (∀ (i : Instr) (s : State) (c : BoundsCause), exec i s = .fault (.boundsError c) ↔
    (c = .stackUnderflow ∧ i = .ret ∧ s.sp.val = 0) ∨
    (c = .stackOverflow ∧ (∃ nnn, i = .call nnn) ∧ s.sp.val = 16) ∨
    (c = .keypadIndex ∧ ∃ x, (i = .skp x ∨ i = .sknp x) ∧ 15 < (s.getV x).toNat) ∨
    (c = .spriteSource ∧ ∃ x y n, i = .drw x y n ∧ 0 < n.toNat ∧ 0xFFF < s.i.toNat + n.toNat - 1) ∨
    (c = .bcdTarget ∧ (∃ x, i = .ldB x) ∧ 0xFFF < s.i.toNat + 2) ∨
    (c = .dumpTarget ∧ ∃ x, i = .ldMemVx x ∧ 0xFFF < s.i.toNat + x.toNat) ∨
    (c = .loadSource ∧ ∃ x, i = .ldVxMem x ∧ 0xFFF < s.i.toNat + x.toNat)) ∧
  (∀ (i : Instr) (s : State), exec i s ≠ .fault .decodeError) ∧
  ∀ s : State, step s = .fault (.boundsError .fetch) ↔ s.waiting = false ∧ 0xFFF < s.pc.toNat + 1

/-- R86: the model refuses nothing but the five flag instructions with VF among the register operands they
use, and those only when `FLAG_ALIAS` is `refuse`. -/
def Obligations.RefusalsAreOnlyFlagAlias : Prop :=
  ∀ (i : Instr) (s : State) (r : Refusal), exec i s = .refused r ↔
    r = .flagAlias ∧ s.params.flagAlias = .refuse ∧
    ((∃ x y, (i = .addReg x y ∨ i = .subReg x y ∨ i = .subnReg x y) ∧ (x = 0xF ∨ y = 0xF)) ∨
     ∃ x y, (i = .shr x y ∨ i = .shl x y) ∧ x = 0xF)

/-! ### The whole machine -/

/-- R15: an instruction that changes VF is one of the implicit flag writers, or names VF as its destination
(Fx65 with x = F loads it). -/
def Obligations.FlagRegisterHasOnlyTheListedWriters : Prop :=
  ∀ (i : Instr) (s t : State), exec i s = .next t → t.getV 0xF ≠ s.getV 0xF →
    (∃ x y, i = .addReg x y ∨ i = .subReg x y ∨ i = .subnReg x y ∨ i = .shr x y ∨ i = .shl x y) ∨
    (∃ x y n, i = .drw x y n) ∨
    (∃ kk, i = .ldByte 0xF kk ∨ i = .addByte 0xF kk ∨ i = .rnd 0xF kk) ∨
    (∃ y, i = .ldReg 0xF y ∨ i = .orReg 0xF y ∨ i = .andReg 0xF y ∨ i = .xorReg 0xF y) ∨
    i = .ldVxDt 0xF ∨ i = .ldVxMem 0xF

/-- R18: how pc advances over a step that answers a next state: unchanged while waiting; else set by 1nnn,
2nnn, Bnnn and 00EE to their targets, and past the word for every other instruction, by a further 2 only
for a skip. -/
def Obligations.ProgramCounterAdvancesAsListed : Prop :=
  ∀ s s' : State, step s = .next s' →
    (s.waiting = true ∧ s'.pc = s.pc) ∨
    (s.waiting = false ∧ ∃ i, decode s.params.strictLowNibble s.fetchWord = .ok i ∧
      ((s'.pc = s.pc + 2 ∧ i ≠ .ret ∧ ∀ nnn, i ≠ .jp nnn ∧ i ≠ .call nnn ∧ i ≠ .jpV0 nnn) ∨
       (s'.pc = s.pc + 4 ∧ ((∃ x kk, i = .seByte x kk ∨ i = .sneByte x kk) ∨
         (∃ x y, i = .seReg x y ∨ i = .sneReg x y) ∨ ∃ x, i = .skp x ∨ i = .sknp x)) ∨
       (∃ nnn, (i = .jp nnn ∨ i = .call nnn) ∧ s'.pc.toNat = nnn.toNat) ∨
       (∃ nnn, i = .jpV0 nnn ∧ s'.pc.toNat = nnn.toNat + (s.getV 0).toNat) ∨
       (i = .ret ∧ ∃ h : s.sp.val - 1 < 16, 0 < s.sp.val ∧ s'.pc = s.stack[s.sp.val - 1])))

/-- Which instructions write each part of the state: a general register only those that R14 lists as writing
it (Fx0A writes its register through supply_key, not here), pc only skips and transfers (R18), `opcode` and
the keypad none, the flags, the stack, I, the timers, the screen and memory only those the rules name. -/
def Obligations.EachPartHasOnlyItsWriters : Prop :=
  ∀ (i : Instr) (s t : State), exec i s = .next t →
    (∀ r, t.getV r ≠ s.getV r →
      (∃ kk, i = .ldByte r kk ∨ i = .addByte r kk ∨ i = .rnd r kk) ∨
      (∃ y, i = .ldReg r y ∨ i = .orReg r y ∨ i = .andReg r y ∨ i = .xorReg r y) ∨
      (∃ x y, (x = r ∨ r = 0xF) ∧
        (i = .addReg x y ∨ i = .subReg x y ∨ i = .subnReg x y ∨ i = .shr x y ∨ i = .shl x y)) ∨
      (r = 0xF ∧ ∃ x y n, i = .drw x y n) ∨ i = .ldVxDt r ∨
      ∃ x : RegIdx, r.toNat ≤ x.toNat ∧ i = .ldVxMem x) ∧
    (t.pc = s.pc ∨
      (t.pc = s.pc + 2 ∧ ((∃ x kk, i = .seByte x kk ∨ i = .sneByte x kk) ∨
        (∃ x y, i = .seReg x y ∨ i = .sneReg x y) ∨ ∃ x, i = .skp x ∨ i = .sknp x)) ∨
      (∃ nnn, i = .jp nnn ∨ i = .call nnn ∨ i = .jpV0 nnn) ∨ i = .ret) ∧
    t.opcode = s.opcode ∧ t.keys = s.keys ∧
    (s.drawRequest = true → t.drawRequest = true) ∧
    ((∃ x, i = .ldVxK x) ∨ (t.waiting = s.waiting ∧ t.waitReg = s.waitReg)) ∧
    (i = .cls ∨ (∃ x y n, i = .drw x y n) ∨ (t.drawRequest = s.drawRequest ∧ t.fb = s.fb)) ∧
    ((∃ nnn, i = .call nnn) ∨ t.stack = s.stack) ∧
    ((∃ nnn, i = .call nnn) ∨ i = .ret ∨ t.sp = s.sp) ∧
    ((∃ nnn, i = .ldI nnn) ∨ (∃ x, i = .addI x ∨ i = .ldF x) ∨ t.i = s.i) ∧
    ((∃ x, i = .ldDtVx x) ∨ t.dt = s.dt) ∧ ((∃ x, i = .ldStVx x) ∨ t.st = s.st) ∧
    ((∃ x, i = .ldB x ∨ i = .ldMemVx x) ∨ ∀ a, t.byteAt a = s.byteAt a)

/-- THE MODEL'S CHOICE (log entries 1, 6, 7 and 43): its own fields. No host operation changes the parameters;
only Cxkk takes a draw, and one each; no instruction counts a beep, which is the tick's work. -/
def Obligations.ModelOwnFieldsMoveOnlyAsLogged : Prop :=
  (∀ (op : HostOp) (s : State), (hostTurn op s).after.params = s.params) ∧
  ∀ (i : Instr) (s t : State), exec i s = .next t →
    t.beeps = s.beeps ∧
    (((∃ x kk, i = .rnd x kk) ∧ t.draws = s.draws + 1) ∨
     ((∀ x kk, i ≠ .rnd x kk) ∧ t.draws = s.draws))

/-- R131: Running becomes WaitingForKey only by a step that executes Fx0A, and WaitingForKey becomes Running
only by an accepted supply_key (construct gives a new VM); every other host operation keeps the flag, and a
step of a waiting core changes nothing. A refused step keeps the flag by the model's log entry 43. -/
def Obligations.KeyWaitIsATwoStateMachine : Prop :=
  ∀ (op : HostOp) (s : State),
    (s.waiting = false → (hostTurn op s).after.waiting = true →
      op = .step ∧ ∃ x, decode s.params.strictLowNibble s.fetchWord = .ok (.ldVxK x)) ∧
    (s.waiting = true → (hostTurn op s).after.waiting = false →
      op = .construct ∨ ∃ k, k ≤ 15 ∧ op = .supplyKey k) ∧
    (s.waiting = true → op = .step → (hostTurn op s).after = s)

/-- R143 (a): at a self-jump of a core that is not waiting, a step answers a next state that differs only in
the timers and in the word latched, and is again at the self-jump. -/
def Obligations.SelfJumpRepeatsItself : Prop :=
  ∀ s : State, s.waiting = false → s.atSelfJump = true →
    ∃ t, step s = .next t ∧ t.atSelfJump = true ∧
      ChangesOnly s t fun p => p = .opcode ∨ p = .delayTimer ∨ p = .soundTimer

/-- R28: only Ex9E and ExA1 read the keypad: every other instruction answers the same with another keypad,
Fx0A among them. -/
def Obligations.OnlyKeySkipsReadTheKeypad : Prop :=
  ∀ (i : Instr) (s : State) (ks : Vector Bool 16), (∀ x, i ≠ .skp x ∧ i ≠ .sknp x) →
    exec i (s.setKeys ks) = mapNext (fun t => t.setKeys ks) (exec i s)

/-- R21, R22, R26: no instruction reads `opcode`, `draw_request` or the sound timer: with another value there
every instruction answers the same but for that field. -/
def Obligations.NoInstructionReadsOpcodeDrawRequestOrSoundTimer : Prop :=
  ∀ (i : Instr) (s : State) (w : Word) (d : Bool) (b : Byte),
    exec i (s.setOpcode w) = mapNext (fun t => t.setOpcode w) (exec i s) ∧
    mapNext (fun t => t.setDrawRequest d) (exec i (s.setDrawRequest d)) =
      mapNext (fun t => t.setDrawRequest d) (exec i s) ∧
    mapNext (fun t => t.setSt b) (exec i (s.setSt b)) = mapNext (fun t => t.setSt b) (exec i s)

/-- R40, R50, of the model's own operation `withFetchWord` (log entry 10): a word placed where the step
fetches is what the step runs, at every state and for every instruction, and placing it changes nothing but
its two bytes, the wait and, where pc has no two bytes in memory, pc. -/
def Obligations.PlacedWordIsTheOneRun : Prop :=
  ∀ (s : State) (w : Nat) (i : Instr),
    decode s.params.strictLowNibble (BitVec.ofNat 16 w) = .ok i →
    ∃ u, u = s.withFetchWord 16 w ∧
      step u =
        (match exec i (u.fetched (BitVec.ofNat 16 w)) with
         | .next t => .next t.tick
         | .fault f => .fault f
         | .refused r => .refused r) ∧
      ChangesOnly s u fun p => p = .waiting ∨ p = .byte u.pc.toNat ∨ p = .byte (u.pc.toNat + 1) ∨
        (p = .pc ∧ 0xFFF < s.pc.toNat + 1)

/-- R50, with R140, which is the spec's own inference: a register dump over the next instruction's bytes is
fetched as stored by the next step. -/
def Obligations.StoredBytesAreFetched : Prop :=
  ∀ (s : State) (x a b : RegIdx), s.i.toNat + x.toNat ≤ 0xFFF →
    a.toNat + 1 = b.toNat → b.toNat ≤ x.toNat → s.pc.toNat = s.i.toNat + a.toNat →
    ∃ t, exec (.ldMemVx x) s = .next t ∧ t.tick.fetchWord = s.getV a ++ s.getV b

/-! ### The invariant -/

/-- The invariant at reset: pc in its range, stack entries in theirs, memory canonical and inside 0x000 to
0xFFF. Derived: R32 is the spec's own inference, and the canonical form is the model's (log entry 8). -/
def Obligations.ResetMeetsTheInvariant : Prop :=
  State.reset.Inv ∧ ∀ p, (State.construct p).Inv

/-- The invariant is kept by every step from every state that has it, reachable or not (10_state.md R32, the
spec's own inference; the canonical form is the model's, log entry 8). -/
def Obligations.StepKeepsTheInvariant : Prop :=
  ∀ s s' : State, s.Inv → step s = .next s' → s'.Inv

/-- The invariant is kept by every run of host operations, steps that return an error among them (R32, the
spec's own inference; the canonical form is the model's, log entry 8; R119 for steps after an error, and
the model's log entry 43 for the state after a refused step). -/
def Obligations.HostRunsKeepTheInvariant : Prop :=
  ∀ (ops : List HostOp) (s : State), s.Inv → (runHost ops s).Inv

/-! ### Control transfer -/

/-- R74: RET pops the return address, or underflows with no entry in use. -/
def Obligations.RetPopsTheReturnAddress : Prop :=
  ∀ s : State,
    (s.sp.val = 0 → exec .ret s = .fault (.boundsError .stackUnderflow)) ∧
    ∀ k : Fin 16, s.sp.val = k.val + 1 → ∃ t, exec .ret s = .next t ∧
      t.sp.val = k.val ∧ t.pc = s.stack[k] ∧ ChangesOnly s t fun p => p = .sp ∨ p = .pc

/-- R75: JP sets pc to nnn; with nnn = 0xFFF the next step's fetch raises BoundsError. -/
def Obligations.JpSetsPc : Prop :=
  ∀ (nnn : Addr12) (s : State), ∃ t, exec (.jp nnn) s = .next t ∧ t.pc.toNat = nnn.toNat ∧
    (ChangesOnly s t fun p => p = .pc) ∧
    (nnn = 0xFFF → s.waiting = false → step t.tick = .fault (.boundsError .fetch))

/-- R76: CALL pushes the already-advanced pc and jumps, or overflows with all 16 entries in use. -/
def Obligations.CallPushesTheAdvancedPc : Prop :=
  ∀ (nnn : Addr12) (s : State),
    (s.sp.val = 16 → exec (.call nnn) s = .fault (.boundsError .stackOverflow)) ∧
    ∀ k : Fin 16, s.sp.val = k.val → ∃ t, exec (.call nnn) s = .next t ∧
      t.stack[k] = s.pc ∧ t.sp.val = k.val + 1 ∧ t.pc.toNat = nnn.toNat ∧
      ChangesOnly s t fun p => p = .stackEntry k ∨ p = .sp ∨ p = .pc

/-- R77: JP V0 sets pc to nnn + V0, never reduced; a target without two bytes in memory makes the next
step's fetch raise BoundsError. -/
def Obligations.JpV0AddsV0WithoutWrapping : Prop :=
  ∀ (nnn : Addr12) (s : State), ∃ t, exec (.jpV0 nnn) s = .next t ∧
    t.pc.toNat = nnn.toNat + (s.getV 0).toNat ∧ (ChangesOnly s t fun p => p = .pc) ∧
    (0xFFF < t.pc.toNat + 1 → s.waiting = false → step t.tick = .fault (.boundsError .fetch))

/-! ### Skips -/

/-- R79, R80: SE and SNE against a byte skip exactly when it equals, or differs from, the register. -/
def Obligations.ByteSkipsTestTheRegister : Prop :=
  ∀ (x : RegIdx) (kk : Byte) (s : State),
    (∃ t, exec (.seByte x kk) s = .next t ∧ t.pc = (if s.getV x = kk then s.pc + 2 else s.pc) ∧
      ChangesOnly s t fun p => p = .pc) ∧
    ∃ t, exec (.sneByte x kk) s = .next t ∧ t.pc = (if s.getV x = kk then s.pc else s.pc + 2) ∧
      ChangesOnly s t fun p => p = .pc

/-- R81, R82: SE and SNE of two registers skip exactly when they are equal, or differ; x = y always, or
never, skips. -/
def Obligations.RegisterSkipsCompareRegisters : Prop :=
  ∀ (x y : RegIdx) (s : State),
    (∃ t, exec (.seReg x y) s = .next t ∧
      t.pc = (if s.getV x = s.getV y then s.pc + 2 else s.pc) ∧ ChangesOnly s t fun p => p = .pc) ∧
    ∃ t, exec (.sneReg x y) s = .next t ∧
      t.pc = (if s.getV x = s.getV y then s.pc else s.pc + 2) ∧ ChangesOnly s t fun p => p = .pc

/-- R83, R84: SKP and SKNP skip exactly when the key numbered V[x] is held, or is not; a number above 15 is a
BoundsError. -/
def Obligations.KeySkipsTestTheKeypad : Prop :=
  ∀ (x : RegIdx) (s : State),
    (15 < (s.getV x).toNat → exec (.skp x) s = .fault (.boundsError .keypadIndex) ∧
      exec (.sknp x) s = .fault (.boundsError .keypadIndex)) ∧
    ∀ k : Fin 16, (s.getV x).toNat = k.val →
      (∃ t, exec (.skp x) s = .next t ∧ t.pc = (if s.keys[k] = true then s.pc + 2 else s.pc) ∧
        ChangesOnly s t fun p => p = .pc) ∧
      ∃ t, exec (.sknp x) s = .next t ∧ t.pc = (if s.keys[k] = true then s.pc else s.pc + 2) ∧
        ChangesOnly s t fun p => p = .pc

/-! ### Register loads and the ALU -/

/-- R87, R89: LD of a byte and of a register write the destination, VF like any other, and nothing else. -/
def Obligations.LoadsWriteTheDestination : Prop :=
  ∀ (x y : RegIdx) (kk : Byte) (s : State),
    (∃ t, exec (.ldByte x kk) s = .next t ∧ t.getV x = kk ∧ ChangesOnly s t fun p => p = .reg x) ∧
    ∃ t, exec (.ldReg x y) s = .next t ∧ t.getV x = s.getV y ∧ ChangesOnly s t fun p => p = .reg x

/-- R88: ADD of a byte is modulo 256 and writes no flag, so VF changes only as the destination. -/
def Obligations.AddByteWritesNoFlag : Prop :=
  ∀ (x : RegIdx) (kk : Byte) (s : State), ∃ t, exec (.addByte x kk) s = .next t ∧
    (t.getV x).toNat = ((s.getV x).toNat + kk.toNat) % 256 ∧ ChangesOnly s t fun p => p = .reg x

/-- R90, R91, R92: OR, AND and XOR are bitwise and write no flag. -/
def Obligations.LogicIsBitwiseAndWritesNoFlag : Prop :=
  ∀ (x y : RegIdx) (s : State),
    (∃ t, exec (.orReg x y) s = .next t ∧ (ChangesOnly s t fun p => p = .reg x) ∧ ∀ k, k < 8 →
      (t.getV x).getLsbD k = ((s.getV x).getLsbD k || (s.getV y).getLsbD k)) ∧
    (∃ t, exec (.andReg x y) s = .next t ∧ (ChangesOnly s t fun p => p = .reg x) ∧ ∀ k, k < 8 →
      (t.getV x).getLsbD k = ((s.getV x).getLsbD k && (s.getV y).getLsbD k)) ∧
    ∃ t, exec (.xorReg x y) s = .next t ∧ (ChangesOnly s t fun p => p = .reg x) ∧ ∀ k, k < 8 →
      (t.getV x).getLsbD k = ((s.getV x).getLsbD k != (s.getV y).getLsbD k)

/-- R93 with R86: ADD of registers samples both, leaves the sum modulo 256 in V[x], and the carry in VF
unless x = F, where the sum stands. -/
def Obligations.AddRegistersSetsCarry : Prop :=
  ∀ (x y : RegIdx) (s : State), FlagOpRuns s [x, y] → ∃ t, exec (.addReg x y) s = .next t ∧
    (t.getV x).toNat = ((s.getV x).toNat + (s.getV y).toNat) % 256 ∧
    (x ≠ 0xF → (t.getV 0xF).toNat = if (s.getV x).toNat + (s.getV y).toNat > 255 then 1 else 0) ∧
    ChangesOnly s t fun p => p = .reg x ∨ p = .reg 0xF

/-- R94, R96 with R86: SUB leaves V[x] - V[y] and SUBN V[y] - V[x] modulo 256, and NOT borrow in VF unless
x = F, where the difference stands; equality counts as no borrow. -/
def Obligations.SubtractionsSetNotBorrow : Prop :=
  ∀ (x y : RegIdx) (s : State), FlagOpRuns s [x, y] →
    (∃ t, exec (.subReg x y) s = .next t ∧
      ((t.getV x).toNat : Int) = ((s.getV x).toNat - (s.getV y).toNat : Int) % 256 ∧
      (x ≠ 0xF → (t.getV 0xF).toNat = if (s.getV x).toNat ≥ (s.getV y).toNat then 1 else 0) ∧
      ChangesOnly s t fun p => p = .reg x ∨ p = .reg 0xF) ∧
    ∃ t, exec (.subnReg x y) s = .next t ∧
      ((t.getV x).toNat : Int) = ((s.getV y).toNat - (s.getV x).toNat : Int) % 256 ∧
      (x ≠ 0xF → (t.getV 0xF).toNat = if (s.getV y).toNat ≥ (s.getV x).toNat then 1 else 0) ∧
      ChangesOnly s t fun p => p = .reg x ∨ p = .reg 0xF

/-- R95, R97 with R86: SHR and SHL shift V[x] by one in place, whatever y is, and leave the lost bit in VF
unless x = F, where the shifted value stands. -/
def Obligations.ShiftsCaptureTheLostBit : Prop :=
  ∀ (x y : RegIdx) (s : State), FlagOpRuns s [x] →
    (∃ t, exec (.shr x y) s = .next t ∧ (t.getV x).toNat = (s.getV x).toNat / 2 ∧
      (x ≠ 0xF → (t.getV 0xF).toNat = (s.getV x).toNat % 2) ∧
      ChangesOnly s t fun p => p = .reg x ∨ p = .reg 0xF) ∧
    ∃ t, exec (.shl x y) s = .next t ∧ (t.getV x).toNat = (s.getV x).toNat * 2 % 256 ∧
      (x ≠ 0xF → (t.getV 0xF).toNat = (s.getV x).toNat / 128) ∧
      ChangesOnly s t fun p => p = .reg x ∨ p = .reg 0xF

/-! ### Random byte -/

/-- R98: RND leaves a free byte under the mask, so a submask of kk within 0 to kk, and 0 when kk is 0. THE
MODEL'S CHOICE (log entry 6): the byte is `Config.freeDraw` of the count of draws, which has no body. -/
def Obligations.RndStoresAMaskedDraw : Prop :=
  ∀ (x : RegIdx) (kk : Byte) (s : State), ∃ t, exec (.rnd x kk) s = .next t ∧
    t.getV x = Config.freeDraw s.draws &&& kk ∧ (t.getV x).toNat ≤ kk.toNat ∧
    (kk = 0 → t.getV x = 0) ∧ t.draws = s.draws + 1 ∧ ChangesOnly s t fun p => p = .reg x

/-! ### Display -/

/-- R99: CLS turns every pixel off and sets the draw-request flag; VF is not written. -/
def Obligations.ClsClearsEveryPixel : Prop :=
  ∀ s : State, ∃ t, exec .cls s = .next t ∧ (∀ x y, pixelAt t.fb x y = false) ∧
    t.drawRequest = true ∧ ChangesOnly s t fun p => p = .drawRequest ∨ ∃ x y, p = .pixel x y

/-- R100, with R102, which is the spec's own inference: the rasterizer's loop is pointwise: a pixel that a set
bit falls on, wrapping at both edges, is inverted, every other pixel is as it was, and there is a collision
exactly when a covered pixel was on. -/
def Obligations.RasterizerXorsThePixelsItCovers : Prop :=
  ∀ (fb : FrameBuffer) (bytes : List Byte) (ox oy : Byte), bytes.length ≤ 15 →
    (∀ x y, (SpriteCovers bytes ox oy x y →
        pixelAt (drawSprite fb bytes ox oy).1 x y = !pixelAt fb x y) ∧
      (¬ SpriteCovers bytes ox oy x y →
        pixelAt (drawSprite fb bytes ox oy).1 x y = pixelAt fb x y)) ∧
    ((drawSprite fb bytes ox oy).2 = true ↔
      ∃ x y, SpriteCovers bytes ox oy x y ∧ pixelAt fb x y = true)

/-- Drawing the same sprite twice at the same place restores the frame buffer, and one of the two draws
collides exactly when the sprite has a set bit (45_display.md R100; log entry 13 on R101's remark). -/
def Obligations.DrawingTwiceRestoresTheScreen : Prop :=
  ∀ (fb : FrameBuffer) (bytes : List Byte) (ox oy : Byte), bytes.length ≤ 15 →
    (drawSprite (drawSprite fb bytes ox oy).1 bytes ox oy).1 = fb ∧
    (((drawSprite fb bytes ox oy).2 = true ∨
        (drawSprite (drawSprite fb bytes ox oy).1 bytes ox oy).2 = true) ↔
      ∃ byte ∈ bytes, byte ≠ 0)

/-- R101: DRW draws the n bytes at I at the origin (V[x], V[y]) as they stand before VF is reset, leaves the
collision in VF and sets the draw-request flag; Dxy0 reads nothing whatever I is; bytes past 0xFFF are a
BoundsError. The new screen is the rasterizer's (R100). -/
def Obligations.DrwDrawsTheSpriteAtI : Prop :=
  ∀ (x y : RegIdx) (n : BitVec 4) (s : State),
    (0 < n.toNat ∧ 0xFFF < s.i.toNat + n.toNat - 1 →
      exec (.drw x y n) s = .fault (.boundsError .spriteSource)) ∧
    (n.toNat = 0 ∨ s.i.toNat + n.toNat - 1 ≤ 0xFFF →
      ∀ bytes : List Byte, bytes = (List.range n.toNat).map (fun k => s.byteAt (s.i.toNat + k)) →
      ∃ t, exec (.drw x y n) s = .next t ∧
        t.fb = (drawSprite s.fb bytes (s.getV x) (s.getV y)).1 ∧
        t.getV 0xF = (if (drawSprite s.fb bytes (s.getV x) (s.getV y)).2 then 1 else 0) ∧
        t.drawRequest = true ∧
        ChangesOnly s t fun p => p = .reg 0xF ∨ p = .drawRequest ∨ ∃ a b, p = .pixel a b)

/-! ### The index register and memory -/

/-- R104: LD I sets I to nnn, checked only when it is used. -/
def Obligations.LdISetsTheIndex : Prop :=
  ∀ (nnn : Addr12) (s : State), ∃ t, exec (.ldI nnn) s = .next t ∧ t.i.toNat = nnn.toNat ∧
    ChangesOnly s t fun p => p = .index

/-- R105: ADD I adds a register modulo 0x10000 and writes no flag, even past 0xFFF. -/
def Obligations.AddIWrapsAtSixteenBits : Prop :=
  ∀ (x : RegIdx) (s : State), ∃ t, exec (.addI x) s = .next t ∧
    t.i.toNat = (s.i.toNat + (s.getV x).toNat) % 0x10000 ∧ ChangesOnly s t fun p => p = .index

/-- R106: LD F points I at the glyph of the low nibble of V[x], whatever FONT_BASE is. -/
def Obligations.LdFPointsAtTheGlyph : Prop :=
  ∀ (x : RegIdx) (s : State), ∃ t, exec (.ldF x) s = .next t ∧
    t.i.toNat = s.params.fontBase.val + 5 * ((s.getV x).toNat % 16) ∧
    ChangesOnly s t fun p => p = .index

/-- R107: LD B stores the hundreds, tens and ones of V[x] at I, I+1 and I+2, or is a BoundsError when
I + 2 > 0xFFF; I is unchanged. -/
def Obligations.LdBStoresTheDecimalDigits : Prop :=
  ∀ (x : RegIdx) (s : State),
    (0xFFF < s.i.toNat + 2 → exec (.ldB x) s = .fault (.boundsError .bcdTarget)) ∧
    (s.i.toNat + 2 ≤ 0xFFF → ∃ t, exec (.ldB x) s = .next t ∧
      (t.byteAt s.i.toNat).toNat = (s.getV x).toNat / 100 ∧
      (t.byteAt (s.i.toNat + 1)).toNat = (s.getV x).toNat / 10 % 10 ∧
      (t.byteAt (s.i.toNat + 2)).toNat = (s.getV x).toNat % 10 ∧
      ChangesOnly s t fun p => ∃ a, p = .byte a ∧ s.i.toNat ≤ a ∧ a ≤ s.i.toNat + 2)

/-- R108: LD [I], Vx copies V0 to V[x] inclusive to memory from I on, or is a BoundsError when I + x > 0xFFF;
I is unchanged. -/
def Obligations.RegisterDumpIsInclusive : Prop :=
  ∀ (x : RegIdx) (s : State),
    (0xFFF < s.i.toNat + x.toNat → exec (.ldMemVx x) s = .fault (.boundsError .dumpTarget)) ∧
    (s.i.toNat + x.toNat ≤ 0xFFF → ∃ t, exec (.ldMemVx x) s = .next t ∧
      (∀ r : RegIdx, r.toNat ≤ x.toNat → t.byteAt (s.i.toNat + r.toNat) = s.getV r) ∧
      ChangesOnly s t fun p => ∃ a, p = .byte a ∧ s.i.toNat ≤ a ∧ a ≤ s.i.toNat + x.toNat)

/-- R109: LD Vx, [I] loads V0 to V[x] inclusive from memory from I on, or is a BoundsError when
I + x > 0xFFF; I is unchanged. -/
def Obligations.RegisterLoadIsInclusive : Prop :=
  ∀ (x : RegIdx) (s : State),
    (0xFFF < s.i.toNat + x.toNat → exec (.ldVxMem x) s = .fault (.boundsError .loadSource)) ∧
    (s.i.toNat + x.toNat ≤ 0xFFF → ∃ t, exec (.ldVxMem x) s = .next t ∧
      (∀ r : RegIdx, r.toNat ≤ x.toNat → t.getV r = s.byteAt (s.i.toNat + r.toNat)) ∧
      ChangesOnly s t fun p => ∃ r : RegIdx, p = .reg r ∧ r.toNat ≤ x.toNat)

/-! ### Timers and the key-wait -/

/-- R110: LD Vx, DT reads the delay timer as it stands before this step's tick. -/
def Obligations.LdVxDtReadsTheDelayTimer : Prop :=
  ∀ (x : RegIdx) (s : State), ∃ t, exec (.ldVxDt x) s = .next t ∧ t.getV x = s.dt ∧
    t.tick.getV x = s.dt ∧ ChangesOnly s t fun p => p = .reg x

/-- R112, R113: LD DT and LD ST set a timer to V[x], which the same step's tick then counts down; the tick
after LD ST emits the beep exactly when V[x] is 1. -/
def Obligations.TimerLoadsAreTickedInTheSameStep : Prop :=
  ∀ (x : RegIdx) (s : State),
    (∃ t, exec (.ldDtVx x) s = .next t ∧ t.dt = s.getV x ∧
      t.tick.dt.toNat = (s.getV x).toNat - 1 ∧ ChangesOnly s t fun p => p = .delayTimer) ∧
    ∃ t, exec (.ldStVx x) s = .next t ∧ t.st = s.getV x ∧
      t.tick.st.toNat = (s.getV x).toNat - 1 ∧ (t.beepNow = true ↔ (s.getV x).toNat = 1) ∧
      ChangesOnly s t fun p => p = .soundTimer

/-- R111: LD Vx, K suspends the core with x designated, and every later step is a no-op until supply_key
writes the key there and lets the core run on at the pc past Fx0A. -/
def Obligations.LdVxKSuspendsUntilTheKey : Prop :=
  ∀ (x : RegIdx) (s : State), ∃ t, exec (.ldVxK x) s = .next t ∧ t.waiting = true ∧ t.waitReg = x ∧
    (ChangesOnly s t fun p => p = .waiting ∨ p = .waitReg) ∧ step t.tick = .next t.tick ∧
    ∀ k, k ≤ 15 → ∃ u, hostTurn (.supplyKey k) t.tick = ⟨u, .done⟩ ∧
      (u.getV x).toNat = k ∧ u.waiting = false ∧ u.pc = s.pc
end

