-- ==== Sys2Proof/Laws/Encoding.lean ====
section
/-! SUPPORT. The fields of a word that is written as its fields side by side, one lemma per field and form. -/

namespace Sys2Proof

variable (c x y n : BitVec 4) (kk : Byte) (nnn : Addr12)

/-! ### Bits of the three forms -/

theorem getLsbD_cnnn (j : Nat) : (c ++ nnn : Word).getLsbD j =
    if j < 12 then nnn.getLsbD j else c.getLsbD (j - 12) := BitVec.getLsbD_append

theorem getLsbD_cxkk (j : Nat) : (c ++ x ++ kk : Word).getLsbD j =
    if j < 8 then kk.getLsbD j
    else if j - 8 < 4 then x.getLsbD (j - 8) else c.getLsbD (j - 8 - 4) := by
  rw [← BitVec.getLsbD_append]; exact BitVec.getLsbD_append

theorem getLsbD_cxyn (j : Nat) : (c ++ x ++ y ++ n : Word).getLsbD j =
    if j < 4 then n.getLsbD j
    else if j - 4 < 4 then y.getLsbD (j - 4)
    else if j - 4 - 4 < 4 then x.getLsbD (j - 4 - 4) else c.getLsbD (j - 4 - 4 - 4) := by
  rw [← BitVec.getLsbD_append, ← BitVec.getLsbD_append]; exact BitVec.getLsbD_append

/-! ### class, nnn -/

@[simp] theorem fieldClass_cnnn : fieldClass (c ++ nnn : Word) = c := by
  apply BitVec.eq_of_getLsbD_eq; intro k hk
  simp [fieldClass, getLsbD_cnnn, hk]

@[simp] theorem fieldNNN_cnnn : fieldNNN (c ++ nnn : Word) = nnn := by
  apply BitVec.eq_of_getLsbD_eq; intro k hk
  simp [fieldNNN, getLsbD_cnnn, hk]

/-! ### class, x, kk -/

@[simp] theorem fieldClass_cxkk : fieldClass (c ++ x ++ kk : Word) = c := by
  apply BitVec.eq_of_getLsbD_eq; intro k hk
  have h1 : ¬ 12 + k < 8 := by omega
  have h2 : ¬ 12 + k - 8 < 4 := by omega
  have h3 : 12 + k - 8 - 4 = k := by omega
  simp [fieldClass, getLsbD_cxkk, hk, h1, h2, h3]

@[simp] theorem fieldX_cxkk : fieldX (c ++ x ++ kk : Word) = x := by
  apply BitVec.eq_of_getLsbD_eq; intro k hk
  simp [fieldX, getLsbD_cxkk, hk]

@[simp] theorem fieldKK_cxkk : fieldKK (c ++ x ++ kk : Word) = kk := by
  apply BitVec.eq_of_getLsbD_eq; intro k hk
  simp [fieldKK, getLsbD_cxkk, hk]

/-! ### class, x, y, n -/

@[simp] theorem fieldClass_cxyn : fieldClass (c ++ x ++ y ++ n : Word) = c := by
  apply BitVec.eq_of_getLsbD_eq; intro k hk
  have h1 : ¬ 12 + k < 4 := by omega
  have h2 : ¬ 12 + k - 4 < 4 := by omega
  have h3 : ¬ 12 + k - 4 - 4 < 4 := by omega
  have h4 : 12 + k - 4 - 4 - 4 = k := by omega
  simp [fieldClass, getLsbD_cxyn, hk, h1, h2, h3, h4]

@[simp] theorem fieldX_cxyn : fieldX (c ++ x ++ y ++ n : Word) = x := by
  apply BitVec.eq_of_getLsbD_eq; intro k hk
  have h1 : ¬ 8 + k < 4 := by omega
  have h2 : ¬ 8 + k - 4 < 4 := by omega
  have h3 : 8 + k - 4 - 4 = k := by omega
  simp [fieldX, getLsbD_cxyn, hk, h1, h2, h3]

@[simp] theorem fieldY_cxyn : fieldY (c ++ x ++ y ++ n : Word) = y := by
  apply BitVec.eq_of_getLsbD_eq; intro k hk
  simp [fieldY, getLsbD_cxyn, hk]

@[simp] theorem fieldN_cxyn : fieldN (c ++ x ++ y ++ n : Word) = n := by
  apply BitVec.eq_of_getLsbD_eq; intro k hk
  simp [fieldN, getLsbD_cxyn, hk]

/-! ### A word is its fields side by side -/

theorem word_eq_cnnn (w : Word) : w = fieldClass w ++ fieldNNN w := by
  apply BitVec.eq_of_getLsbD_eq; intro k hk
  rw [getLsbD_cnnn]
  simp only [fieldClass, fieldNNN, BitVec.getLsbD_extractLsb']
  split
  · simp [*]
  · have h1 : 12 + (k - 12) = k := by omega
    have h2 : k - 12 < 4 := by omega
    simp [h1, h2]

theorem word_eq_cxkk (w : Word) : w = fieldClass w ++ fieldX w ++ fieldKK w := by
  apply BitVec.eq_of_getLsbD_eq; intro k hk
  rw [getLsbD_cxkk]
  simp only [fieldClass, fieldX, fieldKK, BitVec.getLsbD_extractLsb']
  split
  · simp [*]
  · split
    · have h1 : 8 + (k - 8) = k := by omega
      simp [*]
    · have h1 : 12 + (k - 8 - 4) = k := by omega
      have h2 : k - 8 - 4 < 4 := by omega
      simp [h1, h2]

theorem word_eq_cxyn (w : Word) : w = fieldClass w ++ fieldX w ++ fieldY w ++ fieldN w := by
  apply BitVec.eq_of_getLsbD_eq; intro k hk
  rw [getLsbD_cxyn]
  simp only [fieldClass, fieldX, fieldY, fieldN, BitVec.getLsbD_extractLsb']
  split
  · simp [*]
  · split
    · have h1 : 4 + (k - 4) = k := by omega
      simp [*]
    · split
      · have h1 : 8 + (k - 4 - 4) = k := by omega
        simp [*]
      · have h1 : 12 + (k - 4 - 4 - 4) = k := by omega
        have h2 : k - 4 - 4 - 4 < 4 := by omega
        simp [h1, h2]

/-! ### Fields as numbers -/

theorem fieldClass_toNat (w : Word) : (fieldClass w).toNat = w.toNat / 0x1000 := by
  simp [fieldClass, BitVec.extractLsb'_toNat, Nat.shiftRight_eq_div_pow]
  omega

theorem fieldN_toNat (w : Word) : (fieldN w).toNat = w.toNat % 0x10 := by
  simp [fieldN, BitVec.extractLsb'_toNat]

theorem fieldKK_toNat (w : Word) : (fieldKK w).toNat = w.toNat % 0x100 := by
  simp [fieldKK, BitVec.extractLsb'_toNat]

/-! ### Bytes of a word -/

/-- A word laid out big-endian and read back big-endian is the word (R40). -/
@[simp] theorem wordOfBytes_high_low (w : Word) : wordOfBytes (highByte w) (lowByte w) = w := by
  apply BitVec.eq_of_getLsbD_eq; intro k hk
  simp only [wordOfBytes, highByte, lowByte, BitVec.getLsbD_append, BitVec.getLsbD_extractLsb']
  split
  · rename_i h; simp [h]
  · rename_i h
    have h1 : k - 8 < 8 := by omega
    have h2 : 8 + (k - 8) = k := by omega
    simp [h1, h2]

/-- `illegalWord` in terms of the fields, for the words whose fields are known. -/
theorem illegalWord_eq (w : Word) :
    illegalWord w =
      ((fieldClass w == 0x0 && !(w == 0x00E0 || w == 0x00EE)) ||
       (fieldClass w == 0x5 && fieldN w != 0) ||
       (fieldClass w == 0x8 && [0x8, 0x9, 0xA, 0xB, 0xC, 0xD, 0xF].contains (fieldN w)) ||
       (fieldClass w == 0x9 && fieldN w != 0) ||
       (fieldClass w == 0xE && !([0x9E, 0xA1].contains (fieldKK w))) ||
       (fieldClass w == 0xF &&
         !([0x07, 0x0A, 0x15, 0x18, 0x1E, 0x29, 0x33, 0x55, 0x65].contains (fieldKK w)))) := rfl

end Sys2Proof
end

