-- ==== Sys2Proof/Laws/Memory.lean ====
section
/-! SUPPORT. Memory: read after write, and that every operation keeps the canonical form. -/

namespace Sys2Proof.Machine

open Config

/-! ### One cell -/

theorem Memory.lookup_insert (m : List Host.Cell) (a : Nat) (b : Byte) (x : Nat) :
    Memory.lookup (Memory.insert m a b) x = if x = a then some b else Memory.lookup m x := by
  induction m with
  | nil => simp [Memory.insert, Memory.lookup, eq_comm]
  | cons c m ih =>
    by_cases hxa : x = a
    · subst hxa
      simp only [Memory.insert]
      split
      · simp [Memory.lookup]
      · split
        · simp [Memory.lookup]
        · rename_i h
          simp [Memory.lookup, Ne.symm h, ih]
    · simp only [Memory.insert]
      split
      · simp [Memory.lookup, Ne.symm hxa]
      · split
        · rename_i h
          simp [Memory.lookup, Ne.symm hxa, ← h]
        · simp [Memory.lookup, ih, hxa]

theorem Memory.lookup_erase (m : List Host.Cell) (a x : Nat) :
    Memory.lookup (Memory.erase m a) x = if x = a then none else Memory.lookup m x := by
  induction m with
  | nil => simp [Memory.erase, Memory.lookup]
  | cons c m ih =>
    simp only [Memory.erase]
    split
    · rename_i h
      by_cases hxa : x = a
      · rw [ih, if_pos hxa, if_pos hxa]
      · have : c.1 ≠ x := by omega
        simp [ih, hxa, Memory.lookup, this]
    · rename_i h
      by_cases hxa : x = a
      · subst hxa; simp [Memory.lookup, h, ih]
      · simp [Memory.lookup, ih, hxa]

/-- Read after write, for every list of cells. -/
theorem Memory.read_write (p : Params) (m : List Host.Cell) (a : Nat) (b : Byte) (x : Nat) :
    Memory.read p (Memory.write p m a b) x = if x = a then b else Memory.read p m x := by
  unfold Memory.read Memory.write
  split
  · rename_i h
    rw [Memory.lookup_erase]
    split
    · rename_i hx; simp [hx, h]
    · rfl
  · rw [Memory.lookup_insert]
    split <;> simp

/-- The bytes written are read back, and every other byte is as it was. -/
theorem Memory.read_writeAll (p : Params) (bs : List Byte) (m : List Host.Cell) (a x : Nat) :
    Memory.read p (Memory.writeAll p m a bs) x =
      if h : a ≤ x ∧ x < a + bs.length then bs[x - a] else Memory.read p m x := by
  induction bs generalizing m a with
  | nil =>
    have : ¬(a ≤ x ∧ x < a + ([] : List Byte).length) := by simp
    rw [dif_neg this]; rfl
  | cons b bs ih =>
    rw [Memory.writeAll, ih]
    by_cases hx : x = a
    · subst hx
      rw [dif_neg (by omega), dif_pos (by simp), Memory.read_write]
      simp
    · by_cases hr : a + 1 ≤ x ∧ x < a + 1 + bs.length
      · rw [dif_pos hr, dif_pos (by simp; omega)]
        have : x - a = (x - (a + 1)) + 1 := by omega
        simp [this]
      · rw [dif_neg hr, dif_neg (by simp; omega), Memory.read_write, if_neg hx]

@[simp] theorem Memory.length_readAll (p : Params) (m : List Host.Cell) (a n : Nat) :
    (Memory.readAll p m a n).length = n := by
  induction n generalizing a with
  | zero => rfl
  | succ n ih => simp [Memory.readAll, ih]

theorem Memory.getElem_readAll (p : Params) (m : List Host.Cell) (a n k : Nat)
    (h : k < (Memory.readAll p m a n).length) :
    (Memory.readAll p m a n)[k] = Memory.read p m (a + k) := by
  induction n generalizing a k with
  | zero => simp [Memory.readAll] at h
  | succ n ih =>
    cases k with
    | zero => rfl
    | succ k =>
      have := ih (a + 1) k (by simpa using h)
      simp [Memory.readAll, this, Nat.add_assoc, Nat.add_comm 1 k]

/-! ### The canonical form -/

/-- A cell of a list after an insertion is the new one or an old one. -/
theorem Memory.mem_insert {m : List Host.Cell} {a : Nat} {b : Byte} {c : Host.Cell}
    (h : c ∈ Memory.insert m a b) : c = (a, b) ∨ c ∈ m := by
  induction m with
  | nil => simpa [Memory.insert] using h
  | cons d m ih =>
    simp only [Memory.insert] at h
    split at h
    · simpa using h
    · split at h
      · rcases List.mem_cons.1 h with h | h
        · exact .inl h
        · exact .inr (List.mem_cons_of_mem _ h)
      · rcases List.mem_cons.1 h with h | h
        · exact .inr (by simp [h])
        · exact (ih h).imp_right (List.mem_cons_of_mem _)

theorem Memory.mem_erase {m : List Host.Cell} {a : Nat} {c : Host.Cell}
    (h : c ∈ Memory.erase m a) : c ∈ m := by
  induction m with
  | nil => simp [Memory.erase] at h
  | cons d m ih =>
    simp only [Memory.erase] at h
    split at h
    · exact List.mem_cons_of_mem _ (ih h)
    · rcases List.mem_cons.1 h with h | h
      · simp [h]
      · exact List.mem_cons_of_mem _ (ih h)

theorem Memory.sorted_insert {m : List Host.Cell} {a : Nat} {b : Byte}
    (h : m.Pairwise fun c d => c.1 < d.1) :
    (Memory.insert m a b).Pairwise fun c d => c.1 < d.1 := by
  induction m with
  | nil => simp [Memory.insert]
  | cons d m ih =>
    obtain ⟨hd, hm⟩ := List.pairwise_cons.1 h
    simp only [Memory.insert]
    split
    · rename_i ha
      refine List.pairwise_cons.2 ⟨fun c hc => ?_, h⟩
      rcases List.mem_cons.1 hc with rfl | hc
      · exact ha
      · exact Nat.lt_trans ha (hd c hc)
    · split
      · rename_i ha
        exact List.pairwise_cons.2 ⟨fun c hc => ha ▸ hd c hc, hm⟩
      · refine List.pairwise_cons.2 ⟨fun c hc => ?_, ih hm⟩
        rcases Memory.mem_insert hc with rfl | hc
        · simp only; omega
        · exact hd c hc

theorem Memory.sorted_erase {m : List Host.Cell} {a : Nat} (h : m.Pairwise fun c d => c.1 < d.1) :
    (Memory.erase m a).Pairwise fun c d => c.1 < d.1 := by
  induction m with
  | nil => exact .nil
  | cons d m ih =>
    obtain ⟨hd, hm⟩ := List.pairwise_cons.1 h
    simp only [Memory.erase]
    split
    · exact ih hm
    · exact List.pairwise_cons.2 ⟨fun c hc => hd c (Memory.mem_erase hc), ih hm⟩

/-- A write inside the address space keeps the canonical form. -/
theorem Memory.wf_write {p : Params} {m : List Host.Cell} {a : Nat} {b : Byte}
    (h : Memory.wf p m) (ha : a < memSize) : Memory.wf p (Memory.write p m a b) := by
  unfold Memory.write
  split
  · exact ⟨Memory.sorted_erase h.1, fun c hc => h.2 c (Memory.mem_erase hc)⟩
  · rename_i hb
    refine ⟨Memory.sorted_insert h.1, fun c hc => ?_⟩
    rcases Memory.mem_insert hc with rfl | hc
    · exact ⟨ha, hb⟩
    · exact h.2 c hc

/-- Writes inside the address space keep the canonical form. -/
theorem Memory.wf_writeAll {p : Params} {bs : List Byte} {m : List Host.Cell} {a : Nat}
    (h : Memory.wf p m) (ha : a + bs.length ≤ memSize) :
    Memory.wf p (Memory.writeAll p m a bs) := by
  induction bs generalizing m a with
  | nil => exact h
  | cons b bs ih =>
    simp only [List.length_cons] at ha
    exact ih (Memory.wf_write h (by omega)) (by omega)

/-- The memory right after construct is canonical: it lists nothing. -/
theorem Memory.wf_nil (p : Params) : Memory.wf p [] := ⟨.nil, by simp⟩

/-- In the canonical form an address is listed exactly when it reads otherwise than after construct. -/
theorem Memory.lookup_of_wf {p : Params} {m : List Host.Cell} (h : Memory.wf p m) (a : Nat) :
    Memory.lookup m a =
      if Memory.read p m a = Memory.resetByte p a then none else some (Memory.read p m a) := by
  have key : ∀ b, Memory.lookup m a = some b → b ≠ Memory.resetByte p a := by
    intro b hb
    have : ∀ m : List Host.Cell, Memory.lookup m a = some b → (a, b) ∈ m := by
      intro m
      induction m with
      | nil => simp [Memory.lookup]
      | cons c m ih =>
        simp only [Memory.lookup]
        split
        · rename_i hc
          intro he
          simp only [Option.some.injEq] at he
          simp [← hc, ← he]
        · exact fun he => List.mem_cons_of_mem _ (ih he)
    exact (h.2 _ (this m hb)).2
  unfold Memory.read
  cases hl : Memory.lookup m a with
  | none => simp
  | some b => simp [key b hl]

/-- Equal memories are equal data: two canonical memories that read alike are the same list. -/
theorem Memory.ext_of_wf {p : Params} {m n : List Host.Cell} (hm : Memory.wf p m)
    (hn : Memory.wf p n) (h : ∀ a, Memory.read p m a = Memory.read p n a) : m = n := by
  have hl : ∀ a, Memory.lookup m a = Memory.lookup n a := fun a => by
    rw [Memory.lookup_of_wf hm, Memory.lookup_of_wf hn, h]
  have sorted := And.intro hm.1 hn.1
  clear h hm hn
  induction m generalizing n with
  | nil =>
    cases n with
    | nil => rfl
    | cons d n => simpa [Memory.lookup] using hl d.1
  | cons c m ih =>
    cases n with
    | nil => simpa [Memory.lookup] using hl c.1
    | cons d n =>
      obtain ⟨hc, hm⟩ := List.pairwise_cons.1 sorted.1
      obtain ⟨hd, hn⟩ := List.pairwise_cons.1 sorted.2
      have below : ∀ (l : List Host.Cell) (a : Nat), (∀ e ∈ l, a < e.1) → Memory.lookup l a = none := by
        intro l a hl
        induction l with
        | nil => rfl
        | cons e l ih =>
          have h1 := hl e (by simp)
          have h2 := ih fun e' he => hl e' (List.mem_cons_of_mem _ he)
          have h3 : e.1 ≠ a := by omega
          simp [Memory.lookup, h3, h2]
      have heq : c.1 = d.1 := by
        rcases Nat.lt_trichotomy c.1 d.1 with hlt | he | hgt
        · have h1 := hl c.1
          rw [below (d :: n) c.1 (fun e he => by
            rcases List.mem_cons.1 he with rfl | he
            · exact hlt
            · exact Nat.lt_trans hlt (hd e he))] at h1
          simp [Memory.lookup] at h1
        · exact he
        · have h1 := hl d.1
          rw [below (c :: m) d.1 (fun e he => by
            rcases List.mem_cons.1 he with rfl | he
            · exact hgt
            · exact Nat.lt_trans hgt (hc e he))] at h1
          simp [Memory.lookup] at h1
      have hval : c.2 = d.2 := by
        have h1 := hl c.1
        simpa [Memory.lookup, heq.symm] using h1
      have htail : m = n := ih (fun a => by
        by_cases ha : a = c.1
        · rw [below m a (fun e he => ha ▸ hc e he), below n a (fun e he => ha ▸ heq ▸ hd e he)]
        · have h1 := hl a
          have h2 : c.1 ≠ a := fun h => ha h.symm
          have h3 : d.1 ≠ a := fun h => ha (heq ▸ h.symm)
          simpa [Memory.lookup, h2, h3] using h1) ⟨hm, hn⟩
      rw [htail, Prod.ext heq hval]

end Sys2Proof.Machine
end

