-- ==== Sys2Proof/Laws/State.lean ====
section
/-! SUPPORT. One lemma per field per update of State, so that no proof unfolds a record update. -/

namespace Sys2Proof.Machine

variable (s : State)

/-! ### setV -/

@[simp] theorem State.setV_v (r : RegIdx) (b : Byte) :
    (s.setV r b).v = s.v.set r.toNat b r.isLt := rfl
@[simp] theorem State.setV_i (r : RegIdx) (b : Byte) : (s.setV r b).i = s.i := rfl
@[simp] theorem State.setV_pc (r : RegIdx) (b : Byte) : (s.setV r b).pc = s.pc := rfl
@[simp] theorem State.setV_stack (r : RegIdx) (b : Byte) : (s.setV r b).stack = s.stack := rfl
@[simp] theorem State.setV_sp (r : RegIdx) (b : Byte) : (s.setV r b).sp = s.sp := rfl
@[simp] theorem State.setV_opcode (r : RegIdx) (b : Byte) : (s.setV r b).opcode = s.opcode := rfl
@[simp] theorem State.setV_drawRequest (r : RegIdx) (b : Byte) :
    (s.setV r b).drawRequest = s.drawRequest := rfl
@[simp] theorem State.setV_waiting (r : RegIdx) (b : Byte) : (s.setV r b).waiting = s.waiting := rfl
@[simp] theorem State.setV_waitReg (r : RegIdx) (b : Byte) : (s.setV r b).waitReg = s.waitReg := rfl
@[simp] theorem State.setV_dt (r : RegIdx) (b : Byte) : (s.setV r b).dt = s.dt := rfl
@[simp] theorem State.setV_st (r : RegIdx) (b : Byte) : (s.setV r b).st = s.st := rfl
@[simp] theorem State.setV_fb (r : RegIdx) (b : Byte) : (s.setV r b).fb = s.fb := rfl
@[simp] theorem State.setV_keys (r : RegIdx) (b : Byte) : (s.setV r b).keys = s.keys := rfl
@[simp] theorem State.setV_mem (r : RegIdx) (b : Byte) : (s.setV r b).mem = s.mem := rfl
@[simp] theorem State.setV_params (r : RegIdx) (b : Byte) : (s.setV r b).params = s.params := rfl
@[simp] theorem State.setV_draws (r : RegIdx) (b : Byte) : (s.setV r b).draws = s.draws := rfl
@[simp] theorem State.setV_beeps (r : RegIdx) (b : Byte) : (s.setV r b).beeps = s.beeps := rfl

/-! ### setI -/

@[simp] theorem State.setI_v (w : Word) : (s.setI w).v = s.v := rfl
@[simp] theorem State.setI_i (w : Word) : (s.setI w).i = w := rfl
@[simp] theorem State.setI_pc (w : Word) : (s.setI w).pc = s.pc := rfl
@[simp] theorem State.setI_stack (w : Word) : (s.setI w).stack = s.stack := rfl
@[simp] theorem State.setI_sp (w : Word) : (s.setI w).sp = s.sp := rfl
@[simp] theorem State.setI_opcode (w : Word) : (s.setI w).opcode = s.opcode := rfl
@[simp] theorem State.setI_drawRequest (w : Word) : (s.setI w).drawRequest = s.drawRequest := rfl
@[simp] theorem State.setI_waiting (w : Word) : (s.setI w).waiting = s.waiting := rfl
@[simp] theorem State.setI_waitReg (w : Word) : (s.setI w).waitReg = s.waitReg := rfl
@[simp] theorem State.setI_dt (w : Word) : (s.setI w).dt = s.dt := rfl
@[simp] theorem State.setI_st (w : Word) : (s.setI w).st = s.st := rfl
@[simp] theorem State.setI_fb (w : Word) : (s.setI w).fb = s.fb := rfl
@[simp] theorem State.setI_keys (w : Word) : (s.setI w).keys = s.keys := rfl
@[simp] theorem State.setI_mem (w : Word) : (s.setI w).mem = s.mem := rfl
@[simp] theorem State.setI_params (w : Word) : (s.setI w).params = s.params := rfl
@[simp] theorem State.setI_draws (w : Word) : (s.setI w).draws = s.draws := rfl
@[simp] theorem State.setI_beeps (w : Word) : (s.setI w).beeps = s.beeps := rfl

/-! ### setPc -/

@[simp] theorem State.setPc_v (w : Word) : (s.setPc w).v = s.v := rfl
@[simp] theorem State.setPc_i (w : Word) : (s.setPc w).i = s.i := rfl
@[simp] theorem State.setPc_pc (w : Word) : (s.setPc w).pc = w := rfl
@[simp] theorem State.setPc_stack (w : Word) : (s.setPc w).stack = s.stack := rfl
@[simp] theorem State.setPc_sp (w : Word) : (s.setPc w).sp = s.sp := rfl
@[simp] theorem State.setPc_opcode (w : Word) : (s.setPc w).opcode = s.opcode := rfl
@[simp] theorem State.setPc_drawRequest (w : Word) : (s.setPc w).drawRequest = s.drawRequest := rfl
@[simp] theorem State.setPc_waiting (w : Word) : (s.setPc w).waiting = s.waiting := rfl
@[simp] theorem State.setPc_waitReg (w : Word) : (s.setPc w).waitReg = s.waitReg := rfl
@[simp] theorem State.setPc_dt (w : Word) : (s.setPc w).dt = s.dt := rfl
@[simp] theorem State.setPc_st (w : Word) : (s.setPc w).st = s.st := rfl
@[simp] theorem State.setPc_fb (w : Word) : (s.setPc w).fb = s.fb := rfl
@[simp] theorem State.setPc_keys (w : Word) : (s.setPc w).keys = s.keys := rfl
@[simp] theorem State.setPc_mem (w : Word) : (s.setPc w).mem = s.mem := rfl
@[simp] theorem State.setPc_params (w : Word) : (s.setPc w).params = s.params := rfl
@[simp] theorem State.setPc_draws (w : Word) : (s.setPc w).draws = s.draws := rfl
@[simp] theorem State.setPc_beeps (w : Word) : (s.setPc w).beeps = s.beeps := rfl

/-! ### setOpcode -/

@[simp] theorem State.setOpcode_v (w : Word) : (s.setOpcode w).v = s.v := rfl
@[simp] theorem State.setOpcode_i (w : Word) : (s.setOpcode w).i = s.i := rfl
@[simp] theorem State.setOpcode_pc (w : Word) : (s.setOpcode w).pc = s.pc := rfl
@[simp] theorem State.setOpcode_stack (w : Word) : (s.setOpcode w).stack = s.stack := rfl
@[simp] theorem State.setOpcode_sp (w : Word) : (s.setOpcode w).sp = s.sp := rfl
@[simp] theorem State.setOpcode_opcode (w : Word) : (s.setOpcode w).opcode = w := rfl
@[simp] theorem State.setOpcode_drawRequest (w : Word) :
    (s.setOpcode w).drawRequest = s.drawRequest := rfl
@[simp] theorem State.setOpcode_waiting (w : Word) : (s.setOpcode w).waiting = s.waiting := rfl
@[simp] theorem State.setOpcode_waitReg (w : Word) : (s.setOpcode w).waitReg = s.waitReg := rfl
@[simp] theorem State.setOpcode_dt (w : Word) : (s.setOpcode w).dt = s.dt := rfl
@[simp] theorem State.setOpcode_st (w : Word) : (s.setOpcode w).st = s.st := rfl
@[simp] theorem State.setOpcode_fb (w : Word) : (s.setOpcode w).fb = s.fb := rfl
@[simp] theorem State.setOpcode_keys (w : Word) : (s.setOpcode w).keys = s.keys := rfl
@[simp] theorem State.setOpcode_mem (w : Word) : (s.setOpcode w).mem = s.mem := rfl
@[simp] theorem State.setOpcode_params (w : Word) : (s.setOpcode w).params = s.params := rfl
@[simp] theorem State.setOpcode_draws (w : Word) : (s.setOpcode w).draws = s.draws := rfl
@[simp] theorem State.setOpcode_beeps (w : Word) : (s.setOpcode w).beeps = s.beeps := rfl

/-! ### setDt -/

@[simp] theorem State.setDt_v (b : Byte) : (s.setDt b).v = s.v := rfl
@[simp] theorem State.setDt_i (b : Byte) : (s.setDt b).i = s.i := rfl
@[simp] theorem State.setDt_pc (b : Byte) : (s.setDt b).pc = s.pc := rfl
@[simp] theorem State.setDt_stack (b : Byte) : (s.setDt b).stack = s.stack := rfl
@[simp] theorem State.setDt_sp (b : Byte) : (s.setDt b).sp = s.sp := rfl
@[simp] theorem State.setDt_opcode (b : Byte) : (s.setDt b).opcode = s.opcode := rfl
@[simp] theorem State.setDt_drawRequest (b : Byte) : (s.setDt b).drawRequest = s.drawRequest := rfl
@[simp] theorem State.setDt_waiting (b : Byte) : (s.setDt b).waiting = s.waiting := rfl
@[simp] theorem State.setDt_waitReg (b : Byte) : (s.setDt b).waitReg = s.waitReg := rfl
@[simp] theorem State.setDt_dt (b : Byte) : (s.setDt b).dt = b := rfl
@[simp] theorem State.setDt_st (b : Byte) : (s.setDt b).st = s.st := rfl
@[simp] theorem State.setDt_fb (b : Byte) : (s.setDt b).fb = s.fb := rfl
@[simp] theorem State.setDt_keys (b : Byte) : (s.setDt b).keys = s.keys := rfl
@[simp] theorem State.setDt_mem (b : Byte) : (s.setDt b).mem = s.mem := rfl
@[simp] theorem State.setDt_params (b : Byte) : (s.setDt b).params = s.params := rfl
@[simp] theorem State.setDt_draws (b : Byte) : (s.setDt b).draws = s.draws := rfl
@[simp] theorem State.setDt_beeps (b : Byte) : (s.setDt b).beeps = s.beeps := rfl

/-! ### setSt -/

@[simp] theorem State.setSt_v (b : Byte) : (s.setSt b).v = s.v := rfl
@[simp] theorem State.setSt_i (b : Byte) : (s.setSt b).i = s.i := rfl
@[simp] theorem State.setSt_pc (b : Byte) : (s.setSt b).pc = s.pc := rfl
@[simp] theorem State.setSt_stack (b : Byte) : (s.setSt b).stack = s.stack := rfl
@[simp] theorem State.setSt_sp (b : Byte) : (s.setSt b).sp = s.sp := rfl
@[simp] theorem State.setSt_opcode (b : Byte) : (s.setSt b).opcode = s.opcode := rfl
@[simp] theorem State.setSt_drawRequest (b : Byte) : (s.setSt b).drawRequest = s.drawRequest := rfl
@[simp] theorem State.setSt_waiting (b : Byte) : (s.setSt b).waiting = s.waiting := rfl
@[simp] theorem State.setSt_waitReg (b : Byte) : (s.setSt b).waitReg = s.waitReg := rfl
@[simp] theorem State.setSt_dt (b : Byte) : (s.setSt b).dt = s.dt := rfl
@[simp] theorem State.setSt_st (b : Byte) : (s.setSt b).st = b := rfl
@[simp] theorem State.setSt_fb (b : Byte) : (s.setSt b).fb = s.fb := rfl
@[simp] theorem State.setSt_keys (b : Byte) : (s.setSt b).keys = s.keys := rfl
@[simp] theorem State.setSt_mem (b : Byte) : (s.setSt b).mem = s.mem := rfl
@[simp] theorem State.setSt_params (b : Byte) : (s.setSt b).params = s.params := rfl
@[simp] theorem State.setSt_draws (b : Byte) : (s.setSt b).draws = s.draws := rfl
@[simp] theorem State.setSt_beeps (b : Byte) : (s.setSt b).beeps = s.beeps := rfl

/-! ### setFb -/

@[simp] theorem State.setFb_v (f : FrameBuffer) : (s.setFb f).v = s.v := rfl
@[simp] theorem State.setFb_i (f : FrameBuffer) : (s.setFb f).i = s.i := rfl
@[simp] theorem State.setFb_pc (f : FrameBuffer) : (s.setFb f).pc = s.pc := rfl
@[simp] theorem State.setFb_stack (f : FrameBuffer) : (s.setFb f).stack = s.stack := rfl
@[simp] theorem State.setFb_sp (f : FrameBuffer) : (s.setFb f).sp = s.sp := rfl
@[simp] theorem State.setFb_opcode (f : FrameBuffer) : (s.setFb f).opcode = s.opcode := rfl
@[simp] theorem State.setFb_drawRequest (f : FrameBuffer) :
    (s.setFb f).drawRequest = s.drawRequest := rfl
@[simp] theorem State.setFb_waiting (f : FrameBuffer) : (s.setFb f).waiting = s.waiting := rfl
@[simp] theorem State.setFb_waitReg (f : FrameBuffer) : (s.setFb f).waitReg = s.waitReg := rfl
@[simp] theorem State.setFb_dt (f : FrameBuffer) : (s.setFb f).dt = s.dt := rfl
@[simp] theorem State.setFb_st (f : FrameBuffer) : (s.setFb f).st = s.st := rfl
@[simp] theorem State.setFb_fb (f : FrameBuffer) : (s.setFb f).fb = f := rfl
@[simp] theorem State.setFb_keys (f : FrameBuffer) : (s.setFb f).keys = s.keys := rfl
@[simp] theorem State.setFb_mem (f : FrameBuffer) : (s.setFb f).mem = s.mem := rfl
@[simp] theorem State.setFb_params (f : FrameBuffer) : (s.setFb f).params = s.params := rfl
@[simp] theorem State.setFb_draws (f : FrameBuffer) : (s.setFb f).draws = s.draws := rfl
@[simp] theorem State.setFb_beeps (f : FrameBuffer) : (s.setFb f).beeps = s.beeps := rfl

/-! ### setDrawRequest -/

@[simp] theorem State.setDrawRequest_v (b : Bool) : (s.setDrawRequest b).v = s.v := rfl
@[simp] theorem State.setDrawRequest_i (b : Bool) : (s.setDrawRequest b).i = s.i := rfl
@[simp] theorem State.setDrawRequest_pc (b : Bool) : (s.setDrawRequest b).pc = s.pc := rfl
@[simp] theorem State.setDrawRequest_stack (b : Bool) : (s.setDrawRequest b).stack = s.stack := rfl
@[simp] theorem State.setDrawRequest_sp (b : Bool) : (s.setDrawRequest b).sp = s.sp := rfl
@[simp] theorem State.setDrawRequest_opcode (b : Bool) :
    (s.setDrawRequest b).opcode = s.opcode := rfl
@[simp] theorem State.setDrawRequest_drawRequest (b : Bool) :
    (s.setDrawRequest b).drawRequest = b := rfl
@[simp] theorem State.setDrawRequest_waiting (b : Bool) :
    (s.setDrawRequest b).waiting = s.waiting := rfl
@[simp] theorem State.setDrawRequest_waitReg (b : Bool) :
    (s.setDrawRequest b).waitReg = s.waitReg := rfl
@[simp] theorem State.setDrawRequest_dt (b : Bool) : (s.setDrawRequest b).dt = s.dt := rfl
@[simp] theorem State.setDrawRequest_st (b : Bool) : (s.setDrawRequest b).st = s.st := rfl
@[simp] theorem State.setDrawRequest_fb (b : Bool) : (s.setDrawRequest b).fb = s.fb := rfl
@[simp] theorem State.setDrawRequest_keys (b : Bool) : (s.setDrawRequest b).keys = s.keys := rfl
@[simp] theorem State.setDrawRequest_mem (b : Bool) : (s.setDrawRequest b).mem = s.mem := rfl
@[simp] theorem State.setDrawRequest_params (b : Bool) :
    (s.setDrawRequest b).params = s.params := rfl
@[simp] theorem State.setDrawRequest_draws (b : Bool) : (s.setDrawRequest b).draws = s.draws := rfl
@[simp] theorem State.setDrawRequest_beeps (b : Bool) : (s.setDrawRequest b).beeps = s.beeps := rfl

/-! ### setWaiting -/

@[simp] theorem State.setWaiting_v (b : Bool) : (s.setWaiting b).v = s.v := rfl
@[simp] theorem State.setWaiting_i (b : Bool) : (s.setWaiting b).i = s.i := rfl
@[simp] theorem State.setWaiting_pc (b : Bool) : (s.setWaiting b).pc = s.pc := rfl
@[simp] theorem State.setWaiting_stack (b : Bool) : (s.setWaiting b).stack = s.stack := rfl
@[simp] theorem State.setWaiting_sp (b : Bool) : (s.setWaiting b).sp = s.sp := rfl
@[simp] theorem State.setWaiting_opcode (b : Bool) : (s.setWaiting b).opcode = s.opcode := rfl
@[simp] theorem State.setWaiting_drawRequest (b : Bool) :
    (s.setWaiting b).drawRequest = s.drawRequest := rfl
@[simp] theorem State.setWaiting_waiting (b : Bool) : (s.setWaiting b).waiting = b := rfl
@[simp] theorem State.setWaiting_waitReg (b : Bool) : (s.setWaiting b).waitReg = s.waitReg := rfl
@[simp] theorem State.setWaiting_dt (b : Bool) : (s.setWaiting b).dt = s.dt := rfl
@[simp] theorem State.setWaiting_st (b : Bool) : (s.setWaiting b).st = s.st := rfl
@[simp] theorem State.setWaiting_fb (b : Bool) : (s.setWaiting b).fb = s.fb := rfl
@[simp] theorem State.setWaiting_keys (b : Bool) : (s.setWaiting b).keys = s.keys := rfl
@[simp] theorem State.setWaiting_mem (b : Bool) : (s.setWaiting b).mem = s.mem := rfl
@[simp] theorem State.setWaiting_params (b : Bool) : (s.setWaiting b).params = s.params := rfl
@[simp] theorem State.setWaiting_draws (b : Bool) : (s.setWaiting b).draws = s.draws := rfl
@[simp] theorem State.setWaiting_beeps (b : Bool) : (s.setWaiting b).beeps = s.beeps := rfl

/-! ### setWaitReg -/

@[simp] theorem State.setWaitReg_v (x : RegIdx) : (s.setWaitReg x).v = s.v := rfl
@[simp] theorem State.setWaitReg_i (x : RegIdx) : (s.setWaitReg x).i = s.i := rfl
@[simp] theorem State.setWaitReg_pc (x : RegIdx) : (s.setWaitReg x).pc = s.pc := rfl
@[simp] theorem State.setWaitReg_stack (x : RegIdx) : (s.setWaitReg x).stack = s.stack := rfl
@[simp] theorem State.setWaitReg_sp (x : RegIdx) : (s.setWaitReg x).sp = s.sp := rfl
@[simp] theorem State.setWaitReg_opcode (x : RegIdx) : (s.setWaitReg x).opcode = s.opcode := rfl
@[simp] theorem State.setWaitReg_drawRequest (x : RegIdx) :
    (s.setWaitReg x).drawRequest = s.drawRequest := rfl
@[simp] theorem State.setWaitReg_waiting (x : RegIdx) : (s.setWaitReg x).waiting = s.waiting := rfl
@[simp] theorem State.setWaitReg_waitReg (x : RegIdx) : (s.setWaitReg x).waitReg = x := rfl
@[simp] theorem State.setWaitReg_dt (x : RegIdx) : (s.setWaitReg x).dt = s.dt := rfl
@[simp] theorem State.setWaitReg_st (x : RegIdx) : (s.setWaitReg x).st = s.st := rfl
@[simp] theorem State.setWaitReg_fb (x : RegIdx) : (s.setWaitReg x).fb = s.fb := rfl
@[simp] theorem State.setWaitReg_keys (x : RegIdx) : (s.setWaitReg x).keys = s.keys := rfl
@[simp] theorem State.setWaitReg_mem (x : RegIdx) : (s.setWaitReg x).mem = s.mem := rfl
@[simp] theorem State.setWaitReg_params (x : RegIdx) : (s.setWaitReg x).params = s.params := rfl
@[simp] theorem State.setWaitReg_draws (x : RegIdx) : (s.setWaitReg x).draws = s.draws := rfl
@[simp] theorem State.setWaitReg_beeps (x : RegIdx) : (s.setWaitReg x).beeps = s.beeps := rfl

/-! ### setKeys -/

@[simp] theorem State.setKeys_v (ks : Vector Bool 16) : (s.setKeys ks).v = s.v := rfl
@[simp] theorem State.setKeys_i (ks : Vector Bool 16) : (s.setKeys ks).i = s.i := rfl
@[simp] theorem State.setKeys_pc (ks : Vector Bool 16) : (s.setKeys ks).pc = s.pc := rfl
@[simp] theorem State.setKeys_stack (ks : Vector Bool 16) : (s.setKeys ks).stack = s.stack := rfl
@[simp] theorem State.setKeys_sp (ks : Vector Bool 16) : (s.setKeys ks).sp = s.sp := rfl
@[simp] theorem State.setKeys_opcode (ks : Vector Bool 16) : (s.setKeys ks).opcode = s.opcode := rfl
@[simp] theorem State.setKeys_drawRequest (ks : Vector Bool 16) :
    (s.setKeys ks).drawRequest = s.drawRequest := rfl
@[simp] theorem State.setKeys_waiting (ks : Vector Bool 16) :
    (s.setKeys ks).waiting = s.waiting := rfl
@[simp] theorem State.setKeys_waitReg (ks : Vector Bool 16) :
    (s.setKeys ks).waitReg = s.waitReg := rfl
@[simp] theorem State.setKeys_dt (ks : Vector Bool 16) : (s.setKeys ks).dt = s.dt := rfl
@[simp] theorem State.setKeys_st (ks : Vector Bool 16) : (s.setKeys ks).st = s.st := rfl
@[simp] theorem State.setKeys_fb (ks : Vector Bool 16) : (s.setKeys ks).fb = s.fb := rfl
@[simp] theorem State.setKeys_keys (ks : Vector Bool 16) : (s.setKeys ks).keys = ks := rfl
@[simp] theorem State.setKeys_mem (ks : Vector Bool 16) : (s.setKeys ks).mem = s.mem := rfl
@[simp] theorem State.setKeys_params (ks : Vector Bool 16) : (s.setKeys ks).params = s.params := rfl
@[simp] theorem State.setKeys_draws (ks : Vector Bool 16) : (s.setKeys ks).draws = s.draws := rfl
@[simp] theorem State.setKeys_beeps (ks : Vector Bool 16) : (s.setKeys ks).beeps = s.beeps := rfl

/-! ### setStack -/

@[simp] theorem State.setStack_v (k : Fin 16) (w : Word) : (s.setStack k w).v = s.v := rfl
@[simp] theorem State.setStack_i (k : Fin 16) (w : Word) : (s.setStack k w).i = s.i := rfl
@[simp] theorem State.setStack_pc (k : Fin 16) (w : Word) : (s.setStack k w).pc = s.pc := rfl
@[simp] theorem State.setStack_stack (k : Fin 16) (w : Word) :
    (s.setStack k w).stack = s.stack.set k.val w k.isLt := rfl
@[simp] theorem State.setStack_sp (k : Fin 16) (w : Word) : (s.setStack k w).sp = s.sp := rfl
@[simp] theorem State.setStack_opcode (k : Fin 16) (w : Word) :
    (s.setStack k w).opcode = s.opcode := rfl
@[simp] theorem State.setStack_drawRequest (k : Fin 16) (w : Word) :
    (s.setStack k w).drawRequest = s.drawRequest := rfl
@[simp] theorem State.setStack_waiting (k : Fin 16) (w : Word) :
    (s.setStack k w).waiting = s.waiting := rfl
@[simp] theorem State.setStack_waitReg (k : Fin 16) (w : Word) :
    (s.setStack k w).waitReg = s.waitReg := rfl
@[simp] theorem State.setStack_dt (k : Fin 16) (w : Word) : (s.setStack k w).dt = s.dt := rfl
@[simp] theorem State.setStack_st (k : Fin 16) (w : Word) : (s.setStack k w).st = s.st := rfl
@[simp] theorem State.setStack_fb (k : Fin 16) (w : Word) : (s.setStack k w).fb = s.fb := rfl
@[simp] theorem State.setStack_keys (k : Fin 16) (w : Word) : (s.setStack k w).keys = s.keys := rfl
@[simp] theorem State.setStack_mem (k : Fin 16) (w : Word) : (s.setStack k w).mem = s.mem := rfl
@[simp] theorem State.setStack_params (k : Fin 16) (w : Word) :
    (s.setStack k w).params = s.params := rfl
@[simp] theorem State.setStack_draws (k : Fin 16) (w : Word) :
    (s.setStack k w).draws = s.draws := rfl
@[simp] theorem State.setStack_beeps (k : Fin 16) (w : Word) :
    (s.setStack k w).beeps = s.beeps := rfl

/-! ### setSp -/

@[simp] theorem State.setSp_v (k : Fin 17) : (s.setSp k).v = s.v := rfl
@[simp] theorem State.setSp_i (k : Fin 17) : (s.setSp k).i = s.i := rfl
@[simp] theorem State.setSp_pc (k : Fin 17) : (s.setSp k).pc = s.pc := rfl
@[simp] theorem State.setSp_stack (k : Fin 17) : (s.setSp k).stack = s.stack := rfl
@[simp] theorem State.setSp_sp (k : Fin 17) : (s.setSp k).sp = k := rfl
@[simp] theorem State.setSp_opcode (k : Fin 17) : (s.setSp k).opcode = s.opcode := rfl
@[simp] theorem State.setSp_drawRequest (k : Fin 17) :
    (s.setSp k).drawRequest = s.drawRequest := rfl
@[simp] theorem State.setSp_waiting (k : Fin 17) : (s.setSp k).waiting = s.waiting := rfl
@[simp] theorem State.setSp_waitReg (k : Fin 17) : (s.setSp k).waitReg = s.waitReg := rfl
@[simp] theorem State.setSp_dt (k : Fin 17) : (s.setSp k).dt = s.dt := rfl
@[simp] theorem State.setSp_st (k : Fin 17) : (s.setSp k).st = s.st := rfl
@[simp] theorem State.setSp_fb (k : Fin 17) : (s.setSp k).fb = s.fb := rfl
@[simp] theorem State.setSp_keys (k : Fin 17) : (s.setSp k).keys = s.keys := rfl
@[simp] theorem State.setSp_mem (k : Fin 17) : (s.setSp k).mem = s.mem := rfl
@[simp] theorem State.setSp_params (k : Fin 17) : (s.setSp k).params = s.params := rfl
@[simp] theorem State.setSp_draws (k : Fin 17) : (s.setSp k).draws = s.draws := rfl
@[simp] theorem State.setSp_beeps (k : Fin 17) : (s.setSp k).beeps = s.beeps := rfl

/-! ### takeDraw -/

@[simp] theorem State.takeDraw_v : s.takeDraw.v = s.v := rfl
@[simp] theorem State.takeDraw_i : s.takeDraw.i = s.i := rfl
@[simp] theorem State.takeDraw_pc : s.takeDraw.pc = s.pc := rfl
@[simp] theorem State.takeDraw_stack : s.takeDraw.stack = s.stack := rfl
@[simp] theorem State.takeDraw_sp : s.takeDraw.sp = s.sp := rfl
@[simp] theorem State.takeDraw_opcode : s.takeDraw.opcode = s.opcode := rfl
@[simp] theorem State.takeDraw_drawRequest : s.takeDraw.drawRequest = s.drawRequest := rfl
@[simp] theorem State.takeDraw_waiting : s.takeDraw.waiting = s.waiting := rfl
@[simp] theorem State.takeDraw_waitReg : s.takeDraw.waitReg = s.waitReg := rfl
@[simp] theorem State.takeDraw_dt : s.takeDraw.dt = s.dt := rfl
@[simp] theorem State.takeDraw_st : s.takeDraw.st = s.st := rfl
@[simp] theorem State.takeDraw_fb : s.takeDraw.fb = s.fb := rfl
@[simp] theorem State.takeDraw_keys : s.takeDraw.keys = s.keys := rfl
@[simp] theorem State.takeDraw_mem : s.takeDraw.mem = s.mem := rfl
@[simp] theorem State.takeDraw_params : s.takeDraw.params = s.params := rfl
@[simp] theorem State.takeDraw_draws : s.takeDraw.draws = s.draws + 1 := rfl
@[simp] theorem State.takeDraw_beeps : s.takeDraw.beeps = s.beeps := rfl

/-! ### storeBytes -/

@[simp] theorem State.storeBytes_v (a : Nat) (bs : List Byte) : (s.storeBytes a bs).v = s.v := rfl
@[simp] theorem State.storeBytes_i (a : Nat) (bs : List Byte) : (s.storeBytes a bs).i = s.i := rfl
@[simp] theorem State.storeBytes_pc (a : Nat) (bs : List Byte) :
    (s.storeBytes a bs).pc = s.pc := rfl
@[simp] theorem State.storeBytes_stack (a : Nat) (bs : List Byte) :
    (s.storeBytes a bs).stack = s.stack := rfl
@[simp] theorem State.storeBytes_sp (a : Nat) (bs : List Byte) :
    (s.storeBytes a bs).sp = s.sp := rfl
@[simp] theorem State.storeBytes_opcode (a : Nat) (bs : List Byte) :
    (s.storeBytes a bs).opcode = s.opcode := rfl
@[simp] theorem State.storeBytes_drawRequest (a : Nat) (bs : List Byte) :
    (s.storeBytes a bs).drawRequest = s.drawRequest := rfl
@[simp] theorem State.storeBytes_waiting (a : Nat) (bs : List Byte) :
    (s.storeBytes a bs).waiting = s.waiting := rfl
@[simp] theorem State.storeBytes_waitReg (a : Nat) (bs : List Byte) :
    (s.storeBytes a bs).waitReg = s.waitReg := rfl
@[simp] theorem State.storeBytes_dt (a : Nat) (bs : List Byte) :
    (s.storeBytes a bs).dt = s.dt := rfl
@[simp] theorem State.storeBytes_st (a : Nat) (bs : List Byte) :
    (s.storeBytes a bs).st = s.st := rfl
@[simp] theorem State.storeBytes_fb (a : Nat) (bs : List Byte) :
    (s.storeBytes a bs).fb = s.fb := rfl
@[simp] theorem State.storeBytes_keys (a : Nat) (bs : List Byte) :
    (s.storeBytes a bs).keys = s.keys := rfl
@[simp] theorem State.storeBytes_mem (a : Nat) (bs : List Byte) :
    (s.storeBytes a bs).mem = Memory.writeAll s.params s.mem a bs := rfl
@[simp] theorem State.storeBytes_params (a : Nat) (bs : List Byte) :
    (s.storeBytes a bs).params = s.params := rfl
@[simp] theorem State.storeBytes_draws (a : Nat) (bs : List Byte) :
    (s.storeBytes a bs).draws = s.draws := rfl
@[simp] theorem State.storeBytes_beeps (a : Nat) (bs : List Byte) :
    (s.storeBytes a bs).beeps = s.beeps := rfl

/-! ### fetched -/

@[simp] theorem State.fetched_v (w : Word) : (s.fetched w).v = s.v := rfl
@[simp] theorem State.fetched_i (w : Word) : (s.fetched w).i = s.i := rfl
@[simp] theorem State.fetched_pc (w : Word) : (s.fetched w).pc = s.pc + 2 := rfl
@[simp] theorem State.fetched_stack (w : Word) : (s.fetched w).stack = s.stack := rfl
@[simp] theorem State.fetched_sp (w : Word) : (s.fetched w).sp = s.sp := rfl
@[simp] theorem State.fetched_opcode (w : Word) : (s.fetched w).opcode = w := rfl
@[simp] theorem State.fetched_drawRequest (w : Word) :
    (s.fetched w).drawRequest = s.drawRequest := rfl
@[simp] theorem State.fetched_waiting (w : Word) : (s.fetched w).waiting = s.waiting := rfl
@[simp] theorem State.fetched_waitReg (w : Word) : (s.fetched w).waitReg = s.waitReg := rfl
@[simp] theorem State.fetched_dt (w : Word) : (s.fetched w).dt = s.dt := rfl
@[simp] theorem State.fetched_st (w : Word) : (s.fetched w).st = s.st := rfl
@[simp] theorem State.fetched_fb (w : Word) : (s.fetched w).fb = s.fb := rfl
@[simp] theorem State.fetched_keys (w : Word) : (s.fetched w).keys = s.keys := rfl
@[simp] theorem State.fetched_mem (w : Word) : (s.fetched w).mem = s.mem := rfl
@[simp] theorem State.fetched_params (w : Word) : (s.fetched w).params = s.params := rfl
@[simp] theorem State.fetched_draws (w : Word) : (s.fetched w).draws = s.draws := rfl
@[simp] theorem State.fetched_beeps (w : Word) : (s.fetched w).beeps = s.beeps := rfl

/-! ### tick -/

@[simp] theorem State.tick_v : s.tick.v = s.v := rfl
@[simp] theorem State.tick_i : s.tick.i = s.i := rfl
@[simp] theorem State.tick_pc : s.tick.pc = s.pc := rfl
@[simp] theorem State.tick_stack : s.tick.stack = s.stack := rfl
@[simp] theorem State.tick_sp : s.tick.sp = s.sp := rfl
@[simp] theorem State.tick_opcode : s.tick.opcode = s.opcode := rfl
@[simp] theorem State.tick_drawRequest : s.tick.drawRequest = s.drawRequest := rfl
@[simp] theorem State.tick_waiting : s.tick.waiting = s.waiting := rfl
@[simp] theorem State.tick_waitReg : s.tick.waitReg = s.waitReg := rfl
@[simp] theorem State.tick_dt : s.tick.dt = tickDown s.dt := rfl
@[simp] theorem State.tick_st : s.tick.st = tickDown s.st := rfl
@[simp] theorem State.tick_fb : s.tick.fb = s.fb := rfl
@[simp] theorem State.tick_keys : s.tick.keys = s.keys := rfl
@[simp] theorem State.tick_mem : s.tick.mem = s.mem := rfl
@[simp] theorem State.tick_params : s.tick.params = s.params := rfl
@[simp] theorem State.tick_draws : s.tick.draws = s.draws := rfl
@[simp] theorem State.tick_beeps : s.tick.beeps = s.beeps + s.beepNow.toNat := rfl

/-! ### Registers read back through getV -/

@[simp] theorem State.getV_setI (w : Word) (q : RegIdx) : (s.setI w).getV q = s.getV q := rfl
@[simp] theorem State.getV_setPc (w : Word) (q : RegIdx) : (s.setPc w).getV q = s.getV q := rfl
@[simp] theorem State.getV_setOpcode (w : Word) (q : RegIdx) :
    (s.setOpcode w).getV q = s.getV q := rfl
@[simp] theorem State.getV_setDt (b : Byte) (q : RegIdx) : (s.setDt b).getV q = s.getV q := rfl
@[simp] theorem State.getV_setSt (b : Byte) (q : RegIdx) : (s.setSt b).getV q = s.getV q := rfl
@[simp] theorem State.getV_setFb (f : FrameBuffer) (q : RegIdx) :
    (s.setFb f).getV q = s.getV q := rfl
@[simp] theorem State.getV_setDrawRequest (b : Bool) (q : RegIdx) :
    (s.setDrawRequest b).getV q = s.getV q := rfl
@[simp] theorem State.getV_setWaiting (b : Bool) (q : RegIdx) :
    (s.setWaiting b).getV q = s.getV q := rfl
@[simp] theorem State.getV_setWaitReg (x : RegIdx) (q : RegIdx) :
    (s.setWaitReg x).getV q = s.getV q := rfl
@[simp] theorem State.getV_setKeys (ks : Vector Bool 16) (q : RegIdx) :
    (s.setKeys ks).getV q = s.getV q := rfl
@[simp] theorem State.getV_setStack (k : Fin 16) (w : Word) (q : RegIdx) :
    (s.setStack k w).getV q = s.getV q := rfl
@[simp] theorem State.getV_setSp (k : Fin 17) (q : RegIdx) : (s.setSp k).getV q = s.getV q := rfl
@[simp] theorem State.getV_takeDraw (q : RegIdx) : s.takeDraw.getV q = s.getV q := rfl
@[simp] theorem State.getV_storeBytes (a : Nat) (bs : List Byte) (q : RegIdx) :
    (s.storeBytes a bs).getV q = s.getV q := rfl
@[simp] theorem State.getV_fetched (w : Word) (q : RegIdx) : (s.fetched w).getV q = s.getV q := rfl
@[simp] theorem State.getV_tick (q : RegIdx) : s.tick.getV q = s.getV q := rfl

/-- Read after write, for every pair of registers (no register is hard-wired, R13). -/
theorem State.getV_setV (r : RegIdx) (b : Byte) (q : RegIdx) :
    (s.setV r b).getV q = if q = r then b else s.getV q := by
  simp only [State.getV, State.setV, Vector.getElem_set, eq_comm, BitVec.toNat_eq]

@[simp] theorem State.getV_setV_self (r : RegIdx) (b : Byte) : (s.setV r b).getV r = b := by
  simp [State.getV_setV]

theorem State.getV_setV_of_ne {r q : RegIdx} (b : Byte) (h : q ≠ r) :
    (s.setV r b).getV q = s.getV q := by
  simp [State.getV_setV, h]

/-! ### Bytes read back through byteAt -/

@[simp] theorem State.byteAt_setV (r : RegIdx) (b : Byte) (x : Nat) :
    (s.setV r b).byteAt x = s.byteAt x := rfl
@[simp] theorem State.byteAt_setI (w : Word) (x : Nat) :
    (s.setI w).byteAt x = s.byteAt x := rfl
@[simp] theorem State.byteAt_setPc (w : Word) (x : Nat) :
    (s.setPc w).byteAt x = s.byteAt x := rfl
@[simp] theorem State.byteAt_setOpcode (w : Word) (x : Nat) :
    (s.setOpcode w).byteAt x = s.byteAt x := rfl
@[simp] theorem State.byteAt_setDt (b : Byte) (x : Nat) :
    (s.setDt b).byteAt x = s.byteAt x := rfl
@[simp] theorem State.byteAt_setSt (b : Byte) (x : Nat) :
    (s.setSt b).byteAt x = s.byteAt x := rfl
@[simp] theorem State.byteAt_setFb (f : FrameBuffer) (x : Nat) :
    (s.setFb f).byteAt x = s.byteAt x := rfl
@[simp] theorem State.byteAt_setDrawRequest (b : Bool) (x : Nat) :
    (s.setDrawRequest b).byteAt x = s.byteAt x := rfl
@[simp] theorem State.byteAt_setWaiting (b : Bool) (x : Nat) :
    (s.setWaiting b).byteAt x = s.byteAt x := rfl
@[simp] theorem State.byteAt_setWaitReg (y : RegIdx) (x : Nat) :
    (s.setWaitReg y).byteAt x = s.byteAt x := rfl
@[simp] theorem State.byteAt_setKeys (ks : Vector Bool 16) (x : Nat) :
    (s.setKeys ks).byteAt x = s.byteAt x := rfl
@[simp] theorem State.byteAt_setStack (k : Fin 16) (w : Word) (x : Nat) :
    (s.setStack k w).byteAt x = s.byteAt x := rfl
@[simp] theorem State.byteAt_setSp (k : Fin 17) (x : Nat) :
    (s.setSp k).byteAt x = s.byteAt x := rfl
@[simp] theorem State.byteAt_takeDraw (x : Nat) : s.takeDraw.byteAt x = s.byteAt x := rfl
@[simp] theorem State.byteAt_fetched (w : Word) (x : Nat) :
    (s.fetched w).byteAt x = s.byteAt x := rfl
@[simp] theorem State.byteAt_tick (x : Nat) : s.tick.byteAt x = s.byteAt x := rfl

end Sys2Proof.Machine
end

