-- ==== Sys2Proof/Laws/Ops.lean ====
section
/-! SUPPORT. One lemma per shared operation that says everything it can do. -/

namespace Sys2Proof.Machine

/-! ### Bytes and registers in bulk -/

/-- A store writes its bytes and leaves every other byte. -/
theorem State.byteAt_storeBytes (s : State) (a : Nat) (bs : List Byte) (x : Nat) :
    (s.storeBytes a bs).byteAt x =
      if h : a ≤ x ∧ x < a + bs.length then bs[x - a] else s.byteAt x :=
  Memory.read_writeAll s.params bs s.mem a x

@[simp] theorem State.length_bytesAt (s : State) (a n : Nat) : (s.bytesAt a n).length = n :=
  Memory.length_readAll ..

theorem State.getElem_bytesAt (s : State) (a n k : Nat) (h : k < (s.bytesAt a n).length) :
    (s.bytesAt a n)[k] = s.byteAt (a + k) :=
  Memory.getElem_readAll s.params s.mem a n k h

@[simp] theorem State.length_dumpRegs (s : State) (count : Nat) :
    (s.dumpRegs count).length = count := by
  simp [State.dumpRegs]

theorem State.getElem_dumpRegs (s : State) (count k : Nat) (h : k < (s.dumpRegs count).length) :
    (s.dumpRegs count)[k] = s.getV (BitVec.ofNat 4 k) := by
  simp [State.dumpRegs]

/-- Loading registers from `first` on writes those the list reaches and leaves the rest. -/
theorem State.getV_loadRegs (bs : List Byte) (s : State) (first : Nat) (r : RegIdx)
    (hroom : first + bs.length ≤ 16) :
    (s.loadRegs first bs).getV r =
      if h : first ≤ r.toNat ∧ r.toNat < first + bs.length then bs[r.toNat - first] else s.getV r := by
  induction bs generalizing s first with
  | nil => rw [dif_neg (by simp)]; rfl
  | cons b bs ih =>
    simp only [List.length_cons] at hroom
    have hidx : r = BitVec.ofNat 4 first ↔ r.toNat = first := by
      rw [BitVec.toNat_eq, BitVec.toNat_ofNat, Nat.mod_eq_of_lt (by omega)]
    rw [State.loadRegs, ih _ _ (by omega), State.getV_setV]
    by_cases h0 : r.toNat = first
    · rw [dif_neg (by omega), if_pos (hidx.2 h0), dif_pos (by simp; omega)]
      simp [h0]
    · rw [if_neg (fun h => h0 (hidx.1 h))]
      by_cases hr : first + 1 ≤ r.toNat ∧ r.toNat < first + 1 + bs.length
      · have : r.toNat - first = r.toNat - (first + 1) + 1 := by omega
        rw [dif_pos hr, dif_pos (by simp; omega)]
        simp [this]
      · rw [dif_neg hr, dif_neg (by simp; omega)]

/-- Loading registers changes nothing but registers. -/
theorem State.loadRegs_eq (bs : List Byte) (s : State) (first : Nat) :
    s.loadRegs first bs = { s with v := (s.loadRegs first bs).v } := by
  induction bs generalizing s first with
  | nil => rfl
  | cons b bs ih => rw [State.loadRegs, ih]; rfl

/-! ### Operations that can end in an error or a refusal -/

theorem checkBounds_eq (a n : Nat) (cause : BoundsCause) (k : Result) :
    checkBounds a n cause k =
      if n = 0 ∨ a + n - 1 ≤ 0xFFF then k else .fault (.boundsError cause) := by
  simp [checkBounds, Memory.inBounds]

theorem checkBounds_next {a n : Nat} {cause : BoundsCause} {k : Result} {t : State} :
    checkBounds a n cause k = .next t ↔ (n = 0 ∨ a + n - 1 ≤ 0xFFF) ∧ k = .next t := by
  rw [checkBounds_eq]; split <;> simp_all

theorem State.pushReturn_next {s t : State} {k : State → Result} :
    s.pushReturn k = .next t ↔
      ∃ h : s.sp.val < 16,
        k ((s.setStack ⟨s.sp.val, h⟩ s.pc).setSp ⟨s.sp.val + 1, Nat.succ_lt_succ h⟩) = .next t := by
  unfold State.pushReturn; split <;> simp_all

theorem State.popReturn_next {s t : State} {k : Word → State → Result} :
    s.popReturn k = .next t ↔
      ∃ h : 0 < s.sp.val,
        k (s.stack[s.sp.val - 1]'(by omega)) (s.setSp ⟨s.sp.val - 1, by omega⟩) = .next t := by
  unfold State.popReturn; split <;> simp_all

theorem State.keyHeld_next {s t : State} {b : Byte} {k : Bool → Result} :
    s.keyHeld b k = .next t ↔ ∃ h : b.toNat < 16, k s.keys[b.toNat] = .next t := by
  unfold State.keyHeld; split <;> simp_all

theorem State.guardAlias_eq (s : State) (vf : Bool) (k : Result) :
    s.guardAlias vf k =
      if s.params.flagAlias = .refuse ∧ vf = true then .refused .flagAlias else k := rfl

theorem State.guardAlias_next {s t : State} {vf : Bool} {k : Result} :
    s.guardAlias vf k = .next t ↔ ¬(s.params.flagAlias = .refuse ∧ vf = true) ∧ k = .next t := by
  rw [State.guardAlias_eq]; split <;> simp_all

/-! ### When they end in an error or a refusal -/

theorem checkBounds_fault {a n : Nat} {cause : BoundsCause} {t : State} {f : Fault} :
    checkBounds a n cause (.next t) = .fault f ↔
      n ≠ 0 ∧ 0xFFF < a + n - 1 ∧ f = .boundsError cause := by
  rw [checkBounds_eq]
  split
  · simp; omega
  · rename_i h
    simp only [Host.Outcome.fault.injEq, eq_comm (a := f)]
    exact ⟨fun hf => ⟨by omega, by omega, hf⟩, fun hf => hf.2.2⟩

theorem checkBounds_refused {a n : Nat} {cause : BoundsCause} {t : State} {r : Refusal} :
    checkBounds a n cause (.next t) ≠ .refused r := by
  rw [checkBounds_eq]; split <;> simp

theorem State.pushReturn_fault {s : State} {g : State → State} {f : Fault} :
    s.pushReturn (fun u => .next (g u)) = .fault f ↔
      s.sp.val = 16 ∧ f = .boundsError .stackOverflow := by
  have := s.sp.isLt
  unfold State.pushReturn
  split
  · simp; omega
  · simp only [Host.Outcome.fault.injEq, eq_comm (a := f)]
    exact ⟨fun hf => ⟨by omega, hf⟩, fun hf => hf.2⟩

theorem State.pushReturn_refused {s : State} {g : State → State} {r : Refusal} :
    s.pushReturn (fun u => .next (g u)) ≠ .refused r := by
  unfold State.pushReturn; split <;> simp

theorem State.popReturn_fault {s : State} {g : Word → State → State} {f : Fault} :
    s.popReturn (fun w u => .next (g w u)) = .fault f ↔
      s.sp.val = 0 ∧ f = .boundsError .stackUnderflow := by
  unfold State.popReturn
  split
  · simp; omega
  · simp only [Host.Outcome.fault.injEq, eq_comm (a := f)]
    exact ⟨fun hf => ⟨by omega, hf⟩, fun hf => hf.2⟩

theorem State.popReturn_refused {s : State} {g : Word → State → State} {r : Refusal} :
    s.popReturn (fun w u => .next (g w u)) ≠ .refused r := by
  unfold State.popReturn; split <;> simp

theorem State.keyHeld_fault {s : State} {b : Byte} {g : Bool → State} {f : Fault} :
    s.keyHeld b (fun held => .next (g held)) = .fault f ↔
      15 < b.toNat ∧ f = .boundsError .keypadIndex := by
  unfold State.keyHeld
  split
  · simp; omega
  · simp only [Host.Outcome.fault.injEq, eq_comm (a := f)]
    exact ⟨fun hf => ⟨by omega, hf⟩, fun hf => hf.2⟩

theorem State.keyHeld_refused {s : State} {b : Byte} {g : Bool → State} {r : Refusal} :
    s.keyHeld b (fun held => .next (g held)) ≠ .refused r := by
  unfold State.keyHeld; split <;> simp

theorem State.guardAlias_fault {s t : State} {vf : Bool} {f : Fault} :
    s.guardAlias vf (.next t) ≠ .fault f := by
  rw [State.guardAlias_eq]; split <;> simp

theorem State.guardAlias_refused {s t : State} {vf : Bool} {r : Refusal} :
    s.guardAlias vf (.next t) = .refused r ↔
      s.params.flagAlias = .refuse ∧ vf = true ∧ r = .flagAlias := by
  rw [State.guardAlias_eq]; split <;> simp_all [eq_comm]

/-! ### The two writes of a flag operation, skipping, the fetch bound, the tick -/

/-- The destination is written last, so it wins when x = F. -/
theorem State.getV_setFlagThen (s : State) (x : RegIdx) (c : Bool) (b : Byte) (q : RegIdx) :
    (s.setFlagThen x c b).getV q =
      if q = x then b else if q = flagReg then flagByte c else s.getV q := by
  simp [State.setFlagThen, State.getV_setV]

/-- A flag operation changes nothing but registers. -/
theorem State.setFlagThen_eq (s : State) (x : RegIdx) (c : Bool) (b : Byte) :
    s.setFlagThen x c b = { s with v := (s.setFlagThen x c b).v } := rfl

theorem State.skipIf_eq (s : State) (c : Bool) :
    s.skipIf c = s.setPc (if c then s.pc + 2 else s.pc) := by
  cases c <;> rfl

theorem State.fetchInBounds_iff (s : State) : s.fetchInBounds = true ↔ s.pc.toNat + 1 ≤ 0xFFF := by
  simp [State.fetchInBounds, Memory.inBounds]

theorem tickDown_toNat (t : Byte) : (tickDown t).toNat = t.toNat - 1 := by
  unfold tickDown
  split
  · rename_i h; simp [h]
  · rename_i h
    have : t.toNat ≠ 0 := fun h0 => h (BitVec.eq_of_toNat_eq (by simpa using h0))
    rw [BitVec.toNat_sub_of_le] <;> simp [BitVec.le_def]; omega

/-! ### Pixels -/

theorem pixelAt_togglePixel (fb : FrameBuffer) (x x' : Fin 64) (y y' : Fin 32) :
    pixelAt (togglePixel fb x y) x' y' =
      if x' = x ∧ y' = y then !pixelAt fb x y else pixelAt fb x' y' := by
  simp only [pixelAt, togglePixel, Fin.getElem_fin, Vector.getElem_set]
  by_cases hx : x = x'
  · subst hx
    by_cases hy : y = y'
    · subst hy; simp
    · have : y.val ≠ y'.val := fun h => hy (Fin.ext h)
      simp [this, Ne.symm hy]
  · have : x.val ≠ x'.val := fun h => hx (Fin.ext h)
    simp [this, Ne.symm hx]

@[simp] theorem pixelAt_blankScreen (x : Fin 64) (y : Fin 32) : pixelAt blankScreen x y = false := by
  simp [pixelAt, blankScreen]

end Sys2Proof.Machine
end

