-- ==== Sys2Proof/Laws/Step.lean ====
section
/-! SUPPORT. What one call of step can do, once. -/

namespace Sys2Proof.Machine

/-! ### The four ways a call of step can go -/

theorem stepCall_waiting {s : State} (h : s.waiting = true) : stepCall s = .ok false s := by
  simp [stepCall, h]

theorem stepCall_fetchFault {s : State} (h : s.waiting = false) (hb : s.fetchInBounds = false) :
    stepCall s = .err (.boundsError .fetch) s := by
  simp [stepCall, h, hb]

theorem stepCall_illegal {s : State} {e : Illegal} (h : s.waiting = false)
    (hb : s.fetchInBounds = true) (hd : decode s.params.strictLowNibble s.fetchWord = .error e) :
    stepCall s = .err .decodeError (s.errorEntry s.fetchWord) := by
  simp [stepCall, h, hb, runWord, hd]

theorem stepCall_runs {s : State} {i : Instr} (h : s.waiting = false)
    (hb : s.fetchInBounds = true) (hd : decode s.params.strictLowNibble s.fetchWord = .ok i) :
    stepCall s = finishStep s s.fetchWord (exec i (s.fetched s.fetchWord)) := by
  simp [stepCall, h, hb, runWord, hd]

/-- Everything a step that returns Ok can have done: it waited, or it ran the instruction at pc, ticked and
returned the beep of that tick. -/
theorem stepCall_ok {s s' : State} {beep : Bool} (h : stepCall s = .ok beep s') :
    (s.waiting = true ∧ s' = s ∧ beep = false) ∨
    (s.waiting = false ∧ s.fetchInBounds = true ∧
      ∃ i t, decode s.params.strictLowNibble s.fetchWord = .ok i ∧
        exec i (s.fetched s.fetchWord) = .next t ∧ s' = t.tick ∧ beep = t.beepNow) := by
  cases hw : s.waiting with
  | true =>
    rw [stepCall_waiting hw, StepReturn.ok.injEq] at h
    exact .inl ⟨rfl, h.2.symm, h.1.symm⟩
  | false =>
    cases hb : s.fetchInBounds with
    | false => simp [stepCall_fetchFault hw hb] at h
    | true =>
      cases hd : decode s.params.strictLowNibble s.fetchWord with
      | error e => simp [stepCall_illegal hw hb hd] at h
      | ok i =>
        rw [stepCall_runs hw hb hd] at h
        cases he : exec i (s.fetched s.fetchWord) with
        | next t =>
          rw [he, finishStep, StepReturn.ok.injEq] at h
          exact .inr ⟨rfl, rfl, i, t, rfl, he, h.2.symm, h.1.symm⟩
        | fault f => simp [he, finishStep] at h
        | refused r => simp [he, finishStep] at h

/-- Everything a step that answers a next state can have done. -/
theorem step_next {s s' : State} (h : step s = .next s') :
    (s.waiting = true ∧ s' = s) ∨
    (s.waiting = false ∧ s.fetchInBounds = true ∧
      ∃ i t, decode s.params.strictLowNibble s.fetchWord = .ok i ∧
        exec i (s.fetched s.fetchWord) = .next t ∧ s' = t.tick) := by
  unfold step at h
  cases hc : stepCall s with
  | ok beep t =>
    rw [hc, StepReturn.outcome, Host.Outcome.next.injEq] at h
    subst h
    rcases stepCall_ok hc with ⟨hw, ht, -⟩ | ⟨hw, hb, i, u, hd, he, ht, -⟩
    · exact .inl ⟨hw, ht⟩
    · exact .inr ⟨hw, hb, i, u, hd, he, ht⟩
  | err f t => simp [hc, StepReturn.outcome] at h
  | refused r => simp [hc, StepReturn.outcome] at h

/-- Everything a step that returns an error can have done. -/
theorem stepCall_err {s s' : State} {f : Fault} (h : stepCall s = .err f s') :
    s.waiting = false ∧
    ((s.fetchInBounds = false ∧ f = .boundsError .fetch ∧ s' = s) ∨
     (s.fetchInBounds = true ∧ s' = s.errorEntry s.fetchWord ∧
      ((f = .decodeError ∧ ∃ e, decode s.params.strictLowNibble s.fetchWord = .error e) ∨
       ∃ i, decode s.params.strictLowNibble s.fetchWord = .ok i ∧
         exec i (s.fetched s.fetchWord) = .fault f))) := by
  cases hw : s.waiting with
  | true => simp [stepCall_waiting hw] at h
  | false =>
    refine ⟨rfl, ?_⟩
    cases hb : s.fetchInBounds with
    | false =>
      rw [stepCall_fetchFault hw hb, StepReturn.err.injEq] at h
      exact .inl ⟨rfl, h.1.symm, h.2.symm⟩
    | true =>
      refine .inr ⟨rfl, ?_⟩
      cases hd : decode s.params.strictLowNibble s.fetchWord with
      | error e =>
        rw [stepCall_illegal hw hb hd, StepReturn.err.injEq] at h
        exact ⟨h.2.symm, .inl ⟨h.1.symm, e, rfl⟩⟩
      | ok i =>
        rw [stepCall_runs hw hb hd] at h
        cases he : exec i (s.fetched s.fetchWord) with
        | next t => simp [he, finishStep] at h
        | fault g =>
          rw [he, finishStep, StepReturn.err.injEq] at h
          exact ⟨h.2.symm, .inr ⟨i, rfl, by rw [he, h.1]⟩⟩
        | refused r => simp [he, finishStep] at h

end Sys2Proof.Machine
end

