-- ==== Sys2Proof/Laws/Host.lean ====
section
/-! SUPPORT. What the host is given by a step, and the state it goes on from, once per return of stepCall. -/

namespace Sys2Proof.Machine

variable {s t : State}

/-- Ok is passed on with its beep and the state it leaves (70_reset_and_hazards.md R142). -/
theorem hostTurn_step_ok {beep : Bool} (h : stepCall s = .ok beep t) :
    hostTurn .step s = ⟨t, .stepOk beep⟩ ∧ step s = .next t := by
  simp [hostTurn, hostStep, step, StepReturn.outcome, h]

/-- An error is passed on with the state it leaves (60_exceptions.md R118, R119). -/
theorem hostTurn_step_err {f : Fault} (h : stepCall s = .err f t) :
    hostTurn .step s = ⟨t, .stepErr f⟩ ∧ step s = .fault f := by
  simp [hostTurn, hostStep, step, StepReturn.outcome, h]

/-- A refusal is passed on and leaves the state before the step (log entry 43). -/
theorem hostTurn_step_refused {r : Refusal} (h : stepCall s = .refused r) :
    hostTurn .step s = ⟨s, .stepRefused r⟩ ∧ step s = .refused r := by
  simp [hostTurn, hostStep, step, StepReturn.outcome, h]

end Sys2Proof.Machine
end

