-- ==== Sys2Proof/Laws/PerInstr.lean ====
section
/-! SUPPORT. Statements made per instruction: the family `EncodesLegal`, one lemma per constructor. -/

namespace Sys2Proof.Laws

/-- The word of an instruction is none of the DecodeError words that R60 lists. -/
def EncodesLegal.Statement (i : Instr) : Prop := legalWord (encode i) = true

theorem EncodesLegal.cls : EncodesLegal.Statement .cls :=
  show legalWord (encode .cls) = true by decide

theorem EncodesLegal.ret : EncodesLegal.Statement .ret :=
  show legalWord (encode .ret) = true by decide

theorem EncodesLegal.jp (nnn : Addr12) : EncodesLegal.Statement (.jp nnn) := by
  simp [EncodesLegal.Statement, legalWord, illegalWord_eq, encode]

theorem EncodesLegal.call (nnn : Addr12) : EncodesLegal.Statement (.call nnn) := by
  simp [EncodesLegal.Statement, legalWord, illegalWord_eq, encode]

theorem EncodesLegal.seByte (x : RegIdx) (kk : Byte) : EncodesLegal.Statement (.seByte x kk) := by
  simp [EncodesLegal.Statement, legalWord, illegalWord_eq, encode]

theorem EncodesLegal.sneByte (x : RegIdx) (kk : Byte) : EncodesLegal.Statement (.sneByte x kk) := by
  simp [EncodesLegal.Statement, legalWord, illegalWord_eq, encode]

theorem EncodesLegal.seReg (x y : RegIdx) : EncodesLegal.Statement (.seReg x y) := by
  simp [EncodesLegal.Statement, legalWord, illegalWord_eq, encode]

theorem EncodesLegal.ldByte (x : RegIdx) (kk : Byte) : EncodesLegal.Statement (.ldByte x kk) := by
  simp [EncodesLegal.Statement, legalWord, illegalWord_eq, encode]

theorem EncodesLegal.addByte (x : RegIdx) (kk : Byte) : EncodesLegal.Statement (.addByte x kk) := by
  simp [EncodesLegal.Statement, legalWord, illegalWord_eq, encode]

theorem EncodesLegal.ldReg (x y : RegIdx) : EncodesLegal.Statement (.ldReg x y) := by
  simp [EncodesLegal.Statement, legalWord, illegalWord_eq, encode]

theorem EncodesLegal.orReg (x y : RegIdx) : EncodesLegal.Statement (.orReg x y) := by
  simp [EncodesLegal.Statement, legalWord, illegalWord_eq, encode]

theorem EncodesLegal.andReg (x y : RegIdx) : EncodesLegal.Statement (.andReg x y) := by
  simp [EncodesLegal.Statement, legalWord, illegalWord_eq, encode]

theorem EncodesLegal.xorReg (x y : RegIdx) : EncodesLegal.Statement (.xorReg x y) := by
  simp [EncodesLegal.Statement, legalWord, illegalWord_eq, encode]

theorem EncodesLegal.addReg (x y : RegIdx) : EncodesLegal.Statement (.addReg x y) := by
  simp [EncodesLegal.Statement, legalWord, illegalWord_eq, encode]

theorem EncodesLegal.subReg (x y : RegIdx) : EncodesLegal.Statement (.subReg x y) := by
  simp [EncodesLegal.Statement, legalWord, illegalWord_eq, encode]

theorem EncodesLegal.shr (x y : RegIdx) : EncodesLegal.Statement (.shr x y) := by
  simp [EncodesLegal.Statement, legalWord, illegalWord_eq, encode]

theorem EncodesLegal.subnReg (x y : RegIdx) : EncodesLegal.Statement (.subnReg x y) := by
  simp [EncodesLegal.Statement, legalWord, illegalWord_eq, encode]

theorem EncodesLegal.shl (x y : RegIdx) : EncodesLegal.Statement (.shl x y) := by
  simp [EncodesLegal.Statement, legalWord, illegalWord_eq, encode]

theorem EncodesLegal.sneReg (x y : RegIdx) : EncodesLegal.Statement (.sneReg x y) := by
  simp [EncodesLegal.Statement, legalWord, illegalWord_eq, encode]

theorem EncodesLegal.ldI (nnn : Addr12) : EncodesLegal.Statement (.ldI nnn) := by
  simp [EncodesLegal.Statement, legalWord, illegalWord_eq, encode]

theorem EncodesLegal.jpV0 (nnn : Addr12) : EncodesLegal.Statement (.jpV0 nnn) := by
  simp [EncodesLegal.Statement, legalWord, illegalWord_eq, encode]

theorem EncodesLegal.rnd (x : RegIdx) (kk : Byte) : EncodesLegal.Statement (.rnd x kk) := by
  simp [EncodesLegal.Statement, legalWord, illegalWord_eq, encode]

theorem EncodesLegal.drw (x y : RegIdx) (n : BitVec 4) : EncodesLegal.Statement (.drw x y n) := by
  simp [EncodesLegal.Statement, legalWord, illegalWord_eq, encode]

theorem EncodesLegal.skp (x : RegIdx) : EncodesLegal.Statement (.skp x) := by
  simp [EncodesLegal.Statement, legalWord, illegalWord_eq, encode]

theorem EncodesLegal.sknp (x : RegIdx) : EncodesLegal.Statement (.sknp x) := by
  simp [EncodesLegal.Statement, legalWord, illegalWord_eq, encode]

theorem EncodesLegal.ldVxDt (x : RegIdx) : EncodesLegal.Statement (.ldVxDt x) := by
  simp [EncodesLegal.Statement, legalWord, illegalWord_eq, encode]

theorem EncodesLegal.ldVxK (x : RegIdx) : EncodesLegal.Statement (.ldVxK x) := by
  simp [EncodesLegal.Statement, legalWord, illegalWord_eq, encode]

theorem EncodesLegal.ldDtVx (x : RegIdx) : EncodesLegal.Statement (.ldDtVx x) := by
  simp [EncodesLegal.Statement, legalWord, illegalWord_eq, encode]

theorem EncodesLegal.ldStVx (x : RegIdx) : EncodesLegal.Statement (.ldStVx x) := by
  simp [EncodesLegal.Statement, legalWord, illegalWord_eq, encode]

theorem EncodesLegal.addI (x : RegIdx) : EncodesLegal.Statement (.addI x) := by
  simp [EncodesLegal.Statement, legalWord, illegalWord_eq, encode]

theorem EncodesLegal.ldF (x : RegIdx) : EncodesLegal.Statement (.ldF x) := by
  simp [EncodesLegal.Statement, legalWord, illegalWord_eq, encode]

theorem EncodesLegal.ldB (x : RegIdx) : EncodesLegal.Statement (.ldB x) := by
  simp [EncodesLegal.Statement, legalWord, illegalWord_eq, encode]

theorem EncodesLegal.ldMemVx (x : RegIdx) : EncodesLegal.Statement (.ldMemVx x) := by
  simp [EncodesLegal.Statement, legalWord, illegalWord_eq, encode]

theorem EncodesLegal.ldVxMem (x : RegIdx) : EncodesLegal.Statement (.ldVxMem x) := by
  simp [EncodesLegal.Statement, legalWord, illegalWord_eq, encode]

end Sys2Proof.Laws
end

