-- ==== Sys2Proof/Tests/Slice0.lean ====
section
/-! SUPPORT. Tests: decoding, ill-formed terms, one step each from spec/95_test_vectors.md, and witnesses. -/

namespace Sys2Proof.Tests

open Sys2Proof Sys2Proof.Machine

/-! ### Helpers -/

/-- A fresh VM (70_reset_and_hazards.md R134). -/
def fresh : State := State.reset

/-- A fresh VM with two registers set. -/
def with2 (x : RegIdx) (a : Byte) (y : RegIdx) (b : Byte) : State := (fresh.setV x a).setV y b

/-- A fresh VM with I set. -/
def atI (w : Word) : State := fresh.setI w

/-- A fresh VM whose key 3 is held. -/
def key3 : State := fresh.setKeys ((Vector.replicate 16 false).set 3 true)

/-- A fresh VM with `FLAG_ALIAS` set to `refuse` (43_alu.md R86). -/
def refusing : State := State.construct { defaultParams with flagAlias := .refuse }

/-- Whether the step that runs a word returns `Ok(beep)` with a state that passes a check. -/
def okWith (s : State) (w : Nat) (beep : Bool) (check : State → Bool) : Bool :=
  match stepCall (s.withFetchWord 16 w) with
  | .ok b t => b == beep && check t
  | _ => false

/-- Whether the step that runs a word returns Ok without a beep, with a state that passes a check. -/
def okAfter (s : State) (w : Nat) (check : State → Bool) : Bool := okWith s w false check

/-- Whether the step that runs a word returns an error, with the state it leaves passing a check. -/
def errAfter (s : State) (w : Nat) (f : Fault) (check : State → Bool) : Bool :=
  match stepCall (s.withFetchWord 16 w) with
  | .err g t => g == f && check t
  | _ => false

/-! ### Decoding: a word written out bit by bit from 30_encoding.md for every constructor -/

theorem test_decode_cls : decodeTableWord 16 0b0000000011100000 = some .cls := by decide
theorem test_decode_ret : decodeTableWord 16 0b0000000011101110 = some .ret := by decide
theorem test_decode_jp : decodeTableWord 16 0b0001101010111100 = some (.jp 0xABC) := by decide
theorem test_decode_call : decodeTableWord 16 0b0010010000000001 = some (.call 0x401) := by decide
theorem test_decode_seByte : decodeTableWord 16 0b0011000101000010 = some (.seByte 1 0x42) := by decide
theorem test_decode_sneByte : decodeTableWord 16 0b0100111110000001 = some (.sneByte 15 0x81) := by
  decide
theorem test_decode_seReg : decodeTableWord 16 0b0101000100100000 = some (.seReg 1 2) := by decide
theorem test_decode_ldByte : decodeTableWord 16 0b0110101001000010 = some (.ldByte 10 0x42) := by
  decide
theorem test_decode_addByte : decodeTableWord 16 0b0111000111111111 = some (.addByte 1 0xFF) := by
  decide
theorem test_decode_ldReg : decodeTableWord 16 0b1000000100100000 = some (.ldReg 1 2) := by decide
theorem test_decode_orReg : decodeTableWord 16 0b1000000100100001 = some (.orReg 1 2) := by decide
theorem test_decode_andReg : decodeTableWord 16 0b1000000100100010 = some (.andReg 1 2) := by decide
theorem test_decode_xorReg : decodeTableWord 16 0b1000000100100011 = some (.xorReg 1 2) := by decide
theorem test_decode_addReg : decodeTableWord 16 0b1000000100100100 = some (.addReg 1 2) := by decide
theorem test_decode_subReg : decodeTableWord 16 0b1000000100100101 = some (.subReg 1 2) := by decide
theorem test_decode_shr : decodeTableWord 16 0b1000000100100110 = some (.shr 1 2) := by decide
theorem test_decode_subnReg : decodeTableWord 16 0b1000000100100111 = some (.subnReg 1 2) := by decide
theorem test_decode_shl : decodeTableWord 16 0b1000000100101110 = some (.shl 1 2) := by decide
theorem test_decode_sneReg : decodeTableWord 16 0b1001000100100000 = some (.sneReg 1 2) := by decide
theorem test_decode_ldI : decodeTableWord 16 0b1010001000101010 = some (.ldI 0x22A) := by decide
theorem test_decode_jpV0 : decodeTableWord 16 0b1011001100000000 = some (.jpV0 0x300) := by decide
theorem test_decode_rnd : decodeTableWord 16 0b1100000111110000 = some (.rnd 1 0xF0) := by decide
theorem test_decode_drw : decodeTableWord 16 0b1101000100100101 = some (.drw 1 2 5) := by decide
theorem test_decode_skp : decodeTableWord 16 0b1110001110011110 = some (.skp 3) := by decide
theorem test_decode_sknp : decodeTableWord 16 0b1110001110100001 = some (.sknp 3) := by decide
theorem test_decode_ldVxDt : decodeTableWord 16 0b1111001100000111 = some (.ldVxDt 3) := by decide
theorem test_decode_ldVxK : decodeTableWord 16 0b1111010100001010 = some (.ldVxK 5) := by decide
theorem test_decode_ldDtVx : decodeTableWord 16 0b1111000100010101 = some (.ldDtVx 1) := by decide
theorem test_decode_ldStVx : decodeTableWord 16 0b1111000100011000 = some (.ldStVx 1) := by decide
theorem test_decode_addI : decodeTableWord 16 0b1111001000011110 = some (.addI 2) := by decide
theorem test_decode_ldF : decodeTableWord 16 0b1111010000101001 = some (.ldF 4) := by decide
theorem test_decode_ldB : decodeTableWord 16 0b1111000100110011 = some (.ldB 1) := by decide
theorem test_decode_ldMemVx : decodeTableWord 16 0b1111001001010101 = some (.ldMemVx 2) := by decide
theorem test_decode_ldVxMem : decodeTableWord 16 0b1111001001100101 = some (.ldVxMem 2) := by decide

/-! ### Well-formedness: an ill-formed term for each check, which the check refuses -/

/-- R60, class 0: no SYS. -/
theorem test_illformed_class0 : legalWord 0x0123 = false ∧ decodeTableWord 16 0x0123 = none := by decide
/-- R60, class 5. -/
theorem test_illformed_class5 : legalWord 0x5121 = false ∧ decodeTableWord 16 0x5121 = none := by decide
/-- R60, class 8, each sub-function that is none. -/
theorem test_illformed_class8 :
    ([0x8128, 0x8129, 0x812A, 0x812B, 0x812C, 0x812D, 0x812F].all fun w =>
      !legalWord (BitVec.ofNat 16 w) && decodeTableWord 16 w == none) = true := by decide
/-- R60, class 9. -/
theorem test_illformed_class9 : legalWord 0x912F = false ∧ decodeTableWord 16 0x912F = none := by decide
/-- R60, class E. -/
theorem test_illformed_classE : legalWord 0xE19F = false ∧ decodeTableWord 16 0xE19F = none := by decide
/-- R60, class F. -/
theorem test_illformed_classF :
    ([0xF100, 0xF1FF].all fun w =>
      !legalWord (BitVec.ofNat 16 w) && decodeTableWord 16 w == none) = true := by decide
/-- R51: one byte is no instruction. -/
theorem test_illformed_truncated : decodeBytes true [0x12] = .error .truncated := by decide
/-- R135: 3585 bytes are no ROM, 3584 and none are. -/
theorem test_illformed_rom : romWellFormed (List.replicate 3585 0) = false ∧
    romWellFormed (List.replicate 3584 0) = true ∧ romWellFormed [] = true := by
  simp only [romWellFormed, List.length_replicate]; decide
/-- R128: 16 is no key, 15 is one. -/
theorem test_illformed_key : keyWellFormed 16 = false ∧ keyWellFormed 15 = true := by decide
/-- Every instruction term is well formed (R53), here one of the widest operands. -/
theorem test_wellformed_instr : (Instr.drw 15 15 15).wellFormed = true := by decide

/-! ### The step (spec/95_test_vectors.md 2.1) -/

theorem test_step_fresh_memory_is_decode_error : step fresh = .fault .decodeError := rfl
theorem test_step_illegal_latches_word : errAfter fresh 0x01E0 .decodeError
    (fun t => t.pc == 0x202 && t.opcode == 0x01E0) = true := by decide
theorem test_step_waiting_does_nothing :
    stepCall (((fresh.setWaiting true).setDt 3).setSt 1) =
      .ok false (((fresh.setWaiting true).setDt 3).setSt 1) := by decide
theorem test_step_fetch_out_of_bounds :
    stepCall (fresh.setPc 0xFFF) = .err (.boundsError .fetch) (fresh.setPc 0xFFF) := by decide
theorem test_step_fetch_at_the_last_word :
    okAfter (fresh.setPc 0xFFE) 0x1200 (fun t => t.pc == 0x200) = true := by decide
theorem test_step_failing_does_not_tick :
    errAfter (((fresh.setSp 16).setDt 3).setSt 1) 0x2222 (.boundsError .stackOverflow)
      (fun t => t.dt == 3 && t.st == 1 && t.sp == 16 && t.pc == 0x202) = true := by decide
theorem test_step_ticks : okAfter ((fresh.setDt 2).setSt 2) 0x6000
    (fun t => t.dt == 1 && t.st == 1) = true := by decide
theorem test_step_beeps : okWith (fresh.setSt 1) 0x6000 true (fun t => t.st == 0) = true := by decide
/-- Part 1, S2, with load_rom as the host performs it. -/
theorem test_load_rom_then_step :
    (match stepCall (hostLoadRom [0xA2, 0x2A] fresh).after with
     | .ok false t => t.i == 0x22A && t.pc == 0x202 && t.opcode == 0xA22A
     | _ => false) = true := by decide

/-! ### Control transfer (2.2) -/

theorem test_ret : okAfter ((fresh.setSp 2).setStack 1 0x30A) 0x00EE
    (fun t => t.sp == 1 && t.pc == 0x30A && t.stack[1] == 0x30A) = true := by decide
theorem test_ret_underflow : errAfter fresh 0x00EE (.boundsError .stackUnderflow)
    (fun t => t.pc == 0x202) = true := by decide
theorem test_jp : okAfter fresh 0x1ABC (fun t => t.pc == 0xABC) = true := by decide
theorem test_jp_to_the_last_byte : okAfter fresh 0x1FFF
    (fun t => stepCall t == .err (.boundsError .fetch) t) = true := by decide
theorem test_call_sixteenth : okAfter (fresh.setSp 15) 0x2400
    (fun t => t.stack[15] == 0x202 && t.sp == 16 && t.pc == 0x400) = true := by decide
theorem test_call_seventeenth : errAfter (fresh.setSp 16) 0x2400 (.boundsError .stackOverflow)
    (fun t => t.pc == 0x202 && t.sp == 16) = true := by decide
theorem test_jpV0 : okAfter (fresh.setV 0 0x10) 0xB200 (fun t => t.pc == 0x210) = true := by decide
theorem test_jpV0_never_wraps : okAfter (fresh.setV 0 0xFF) 0xBFFF
    (fun t => t.pc == 0x10FE && stepCall t == .err (.boundsError .fetch) t) = true := by decide

/-! ### Skips (2.3) -/

theorem test_seByte_taken : okAfter (fresh.setV 1 0x42) 0x3142 (fun t => t.pc == 0x204) = true := by
  decide
theorem test_seByte_not_taken : okAfter (fresh.setV 1 0x41) 0x3142 (fun t => t.pc == 0x202) = true := by
  decide
theorem test_sneByte_not_taken : okAfter (fresh.setV 1 0x42) 0x4142
    (fun t => t.pc == 0x202) = true := by decide
theorem test_sneByte_taken : okAfter (fresh.setV 1 0x41) 0x4142 (fun t => t.pc == 0x204) = true := by
  decide
theorem test_seReg_taken : okAfter (with2 1 7 2 7) 0x5120 (fun t => t.pc == 0x204) = true := by decide
theorem test_seReg_not_taken : okAfter (with2 1 7 2 8) 0x5120 (fun t => t.pc == 0x202) = true := by
  decide
theorem test_sneReg_taken : okAfter (with2 1 7 2 8) 0x9120 (fun t => t.pc == 0x204) = true := by decide
theorem test_sneReg_not_taken : okAfter (with2 1 7 2 7) 0x9120 (fun t => t.pc == 0x202) = true := by
  decide
theorem test_skp_held : okAfter (key3.setV 1 3) 0xE19E (fun t => t.pc == 0x204) = true := by decide
theorem test_skp_key_sixteen : errAfter (key3.setV 1 16) 0xE19E (.boundsError .keypadIndex)
    (fun t => t.pc == 0x202) = true := by decide
theorem test_sknp_held : okAfter (key3.setV 1 3) 0xE1A1 (fun t => t.pc == 0x202) = true := by decide
theorem test_sknp_not_held : okAfter (fresh.setV 1 3) 0xE1A1 (fun t => t.pc == 0x204) = true := by
  decide

/-! ### Loads and the ALU (2.4) -/

theorem test_ldByte : okAfter fresh 0x6FAB (fun t => t.getV 15 == 0xAB) = true := by decide
theorem test_addByte_wraps_without_flag : okAfter (with2 1 0xFE 15 3) 0x7105
    (fun t => t.getV 1 == 0x03 && t.getV 15 == 3) = true := by decide
theorem test_addByte_to_VF : okAfter (fresh.setV 15 0xFF) 0x7F01 (fun t => t.getV 15 == 0) = true := by
  decide
theorem test_ldReg : okAfter (fresh.setV 2 0x99) 0x8120 (fun t => t.getV 1 == 0x99) = true := by decide
theorem test_orReg : okAfter ((with2 1 0xF0 2 0x0F).setV 15 5) 0x8121
    (fun t => t.getV 1 == 0xFF && t.getV 15 == 5) = true := by decide
theorem test_andReg : okAfter (with2 1 0xF0 2 0x3C) 0x8122 (fun t => t.getV 1 == 0x30) = true := by
  decide
theorem test_xorReg : okAfter (with2 1 0xFF 2 0x0F) 0x8123 (fun t => t.getV 1 == 0xF0) = true := by
  decide
theorem test_addReg_carry : okAfter (with2 1 0x80 2 0x80) 0x8124
    (fun t => t.getV 1 == 0 && t.getV 15 == 1) = true := by decide
theorem test_addReg_to_VF : okAfter (with2 15 0xFF 1 3) 0x8F14 (fun t => t.getV 15 == 2) = true := by
  decide
theorem test_subReg_equal : okAfter (with2 1 5 2 5) 0x8125
    (fun t => t.getV 1 == 0 && t.getV 15 == 1) = true := by decide
theorem test_subReg_borrow : okAfter (with2 1 0 2 1) 0x8125
    (fun t => t.getV 1 == 0xFF && t.getV 15 == 0) = true := by decide
theorem test_shr_in_place : okAfter (with2 1 0x05 2 0xFF) 0x8126
    (fun t => t.getV 1 == 0x02 && t.getV 15 == 1 && t.getV 2 == 0xFF) = true := by decide
theorem test_shr_of_VF : okAfter (fresh.setV 15 3) 0x8F06 (fun t => t.getV 15 == 1) = true := by decide
theorem test_subnReg : okAfter (with2 1 2 2 9) 0x8127
    (fun t => t.getV 1 == 7 && t.getV 15 == 1) = true := by decide
theorem test_subnReg_borrow : okAfter (with2 1 1 2 0) 0x8127
    (fun t => t.getV 1 == 0xFF && t.getV 15 == 0) = true := by decide
theorem test_shl : okAfter (fresh.setV 1 0x81) 0x810E
    (fun t => t.getV 1 == 0x02 && t.getV 15 == 1) = true := by decide
theorem test_shl_of_VF : okAfter (fresh.setV 15 0xC0) 0x8F0E (fun t => t.getV 15 == 0x80) = true := by
  decide
/-- R86 under `refuse`: 8F14 has no meaning, and 81F6 has one, since y is not read. -/
theorem test_refuse_alias : step (refusing.withFetchWord 16 0x8F14) = .refused .flagAlias ∧
    okAfter refusing 0x81F6 (fun t => t.pc == 0x202) = true := ⟨rfl, by decide⟩

/-! ### Random byte (2.5) -/

/-- C100 gives 0 whatever the draw is, and takes one draw. -/
theorem test_rnd_mask_zero : exec (.rnd 1 0) (fresh.setV 1 7) =
    .next ((fresh.setV 1 7).takeDraw.setV 1 0) := by
  have h : Config.freeDraw (fresh.setV 1 7).draws &&& 0 = 0 := BitVec.and_zero
  simp only [exec, execRnd]
  rw [h]
/-- C1FF gives the draw itself, whatever it is. -/
theorem test_rnd_mask_all : exec (.rnd 1 0xFF) fresh =
    .next (fresh.takeDraw.setV 1 (Config.freeDraw 0)) := by
  have h : Config.freeDraw fresh.draws &&& 0xFF = Config.freeDraw 0 := BitVec.and_allOnes
  simp only [exec, execRnd]
  rw [h]

/-! ### Display (2.6) -/

theorem test_cls : okAfter (fresh.setFb (togglePixel blankScreen 5 5)) 0x00E0
    (fun t => !pixelAt t.fb 5 5 && t.drawRequest) = true := by decide
/-- S6: a sprite at column 63. -/
theorem test_drw_leftmost_bit : okAfter (((with2 1 63 2 0).setI 0x300).storeBytes 0x300 [0x80]) 0xD121
    (fun t => pixelAt t.fb 63 0 && !pixelAt t.fb 0 0 && t.getV 15 == 0 && t.drawRequest) = true := by
  decide
/-- P3: the same sprite over itself, across both edges: erased, with a collision. -/
theorem test_drw_wraps_and_collides : okAfter
    ((((with2 0 63 1 31).setFb (togglePixel (togglePixel blankScreen 63 31) 0 31)).setI 0x300).storeBytes
      0x300 [0xC0]) 0xD011
    (fun t => !pixelAt t.fb 63 31 && !pixelAt t.fb 0 31 && t.getV 15 == 1) = true := by decide
theorem test_drw_out_of_bounds : errAfter (atI 0xFFF) 0xD012 (.boundsError .spriteSource)
    (fun t => t.pc == 0x202 && !t.drawRequest) = true := by decide
theorem test_drw_height_zero : okAfter ((atI 0xFFFF).setV 15 7) 0xD010
    (fun t => !pixelAt t.fb 0 0 && t.getV 15 == 0 && t.drawRequest) = true := by decide
/-- DF01: the origin column is VF before the reset. -/
theorem test_drw_origin_from_VF : okAfter ((fresh.setV 15 10).setI 0x300 |>.storeBytes 0x300 [0x80])
    0xDF01 (fun t => pixelAt t.fb 10 0 && t.getV 15 == 0) = true := by decide

/-! ### The index register and memory (2.7) -/

theorem test_ldI : okAfter fresh 0xA123 (fun t => t.i == 0x123) = true := by decide
theorem test_addI_past_memory : okAfter ((atI 0xFFF).setV 1 1) 0xF11E
    (fun t => t.i == 0x1000 && t.getV 15 == 0) = true := by decide
theorem test_addI_wraps : okAfter ((atI 0xFFFF).setV 1 2) 0xF11E (fun t => t.i == 1) = true := by decide
theorem test_ldF_last_glyph : okAfter (fresh.setV 1 0x0F) 0xF129 (fun t => t.i == 0x04B) = true := by
  decide
theorem test_ldF_low_nibble : okAfter (fresh.setV 1 0x3A) 0xF129 (fun t => t.i == 0x032) = true := by
  decide
theorem test_ldB : okAfter ((atI 0x300).setV 1 255) 0xF133
    (fun t => t.bytesAt 0x300 3 == [2, 5, 5] && t.i == 0x300) = true := by decide
theorem test_ldB_out_of_bounds : errAfter ((atI 0xFFE).setV 1 7) 0xF133 (.boundsError .bcdTarget)
    (fun t => t.bytesAt 0xFFE 2 == [0, 0]) = true := by decide
theorem test_ldMemVx_inclusive : okAfter (((with2 0 0x11 1 0x22).setV 2 0x33).setV 3 0x44 |>.setI 0x300)
    0xF255 (fun t => t.bytesAt 0x300 4 == [0x11, 0x22, 0x33, 0] && t.i == 0x300) = true := by decide
theorem test_ldMemVx_out_of_bounds : errAfter (atI 0xFF1) 0xFF55 (.boundsError .dumpTarget)
    (fun t => t.pc == 0x202) = true := by decide
theorem test_ldVxMem_font : okAfter (fresh.setV 3 9) 0xF265
    (fun t => t.getV 0 == 0xF0 && t.getV 1 == 0x90 && t.getV 2 == 0x90 && t.getV 3 == 9) = true := by
  decide
theorem test_ldVxMem_out_of_bounds : errAfter (atI 0xFFF) 0xF165 (.boundsError .loadSource)
    (fun t => t.getV 0 == 0) = true := by decide

/-! ### Timers, the key-wait and the host operations (2.8) -/

theorem test_ldVxDt : okAfter (fresh.setDt 5) 0xF107 (fun t => t.getV 1 == 5 && t.dt == 4) = true := by
  decide
theorem test_ldDtVx_one : okAfter (fresh.setV 1 1) 0xF115 (fun t => t.dt == 0) = true := by decide
theorem test_ldDtVx_max : okAfter (fresh.setV 1 0xFF) 0xF115 (fun t => t.dt == 0xFE) = true := by decide
theorem test_ldStVx_one_beeps : okWith (fresh.setV 1 1) 0xF118 true (fun t => t.st == 0) = true := by
  decide
theorem test_ldStVx_zero_is_silent : okAfter (fresh.setSt 5) 0xF118 (fun t => t.st == 0) = true := by
  decide
theorem test_ldVxK : okAfter fresh 0xF30A
    (fun t => t.waiting && t.waitReg == 3 && t.pc == 0x202) = true := by decide
theorem test_supplyKey : hostSupplyKey 0xC ((fresh.setWaiting true).setWaitReg 3) =
    ⟨((fresh.setWaitReg 3).setV 3 0xC), .done⟩ := by decide
/-- R142: the host is given the beep, or the error with the state it leaves (R118). -/
theorem test_host_step : (hostTurn .step ((fresh.setSt 1).withFetchWord 16 0x6000)).reply = .stepOk true ∧
    hostTurn .step fresh = ⟨fresh.setPc 0x202, .stepErr .decodeError⟩ := by decide
theorem test_supplyKey_rejects : hostSupplyKey 16 (fresh.setWaiting true) =
    ⟨fresh.setWaiting true, .rejected⟩ ∧ hostSupplyKey 2 fresh = ⟨fresh, .rejected⟩ := by decide

/-! ### The reset state -/

/-- S1, and the memory lists nothing. -/
theorem test_reset : fresh.pc = 0x200 ∧ fresh.opcode = 0 ∧ fresh.i = 0 ∧ fresh.sp = 0 ∧
    pixelAt fresh.fb 63 31 = false ∧ fresh.mem = [] ∧ fresh.bytesAt 0x04B 5 = [0xF0, 0x80, 0xF0, 0x80, 0x80] := by
  decide
/-- Writing what an unlisted address reads as takes the cell out again (log entry 8). -/
theorem test_memory_is_canonical :
    ((fresh.storeBytes 0x300 [7]).storeBytes 0x300 [0]).mem = [] ∧
    ((fresh.storeBytes 0x301 [7]).storeBytes 0x300 [8]).mem = [(0x300, 8), (0x301, 7)] := by decide

/-! ### Witnesses: a state and operands for the hypotheses of each statement that has any -/

/-- ConstructGivesTheResetValues: each of its three cases. -/
theorem witness_construct : (fresh = State.reset) ∧ (∃ p, fresh = State.construct p) ∧
    ∃ s0, hostTurn .construct s0 = ⟨fresh, .done⟩ := ⟨rfl, ⟨defaultParams, rfl⟩, fresh, by decide⟩

/-- LoadRomWritesTheRomOrNothing: both clauses at the bound. -/
theorem witness_load_rom : 3584 < (List.replicate 3585 (0 : Byte)).length ∧
    (List.replicate 3584 (0 : Byte)).length ≤ 3584 := by
  simp only [List.length_replicate]; decide

/-- SupplyKeyEndsAPendingWait: the first clause at 0 and 15, the second in both ways. -/
theorem witness_supply_key : ((fresh.setWaiting true).waiting = true ∧ 0 ≤ 15 ∧ 15 ≤ 15) ∧
    (fresh.waiting = false ∨ 15 < 15) ∧ ((fresh.setWaiting true).waiting = false ∨ 15 < 16) := by decide

/-- EncodeOfDecodeIsTheWord. -/
theorem witness_encode_of_decode : decode true 0x8126 = .ok (.shr 1 2) := by decide

/-- DecoderRejectsExactlyTheListedWords: a word of each clause, and words beside each that are none. -/
theorem witness_rejects :
    ([0x0000, 0x0FFF, 0x5001, 0x8008, 0x800F, 0x9FFF, 0xE000, 0xF066].all fun w =>
      match decode true w with
      | .error _ => true
      | .ok _ => false) = true ∧
    ([0x00E0, 0x00EE, 0x1000, 0x5FF0, 0x8007, 0x800E, 0x9000, 0xEFA1, 0xFF65].all fun w =>
      match decode true w with
      | .error _ => false
      | .ok _ => true) = true := by decide

/-- DecoderFollowsTheOpcodeTable: the fields of one word. -/
theorem witness_fields : (0x1 : BitVec 4) = (0xD125 : Word).extractLsb' 8 4 ∧
    (0x2 : BitVec 4) = (0xD125 : Word).extractLsb' 4 4 ∧ (0x5 : BitVec 4) = (0xD125 : Word).extractLsb' 0 4 ∧
    (0x25 : Byte) = (0xD125 : Word).extractLsb' 0 8 ∧ (0x125 : Addr12) = (0xD125 : Word).extractLsb' 0 12 := by
  decide

/-- LowNibbleOfClasses5And9: each clause. -/
theorem witness_low_nibble : (0x5120 : Word).toNat / 0x1000 = 0x5 ∧ (0x5120 : Word).toNat % 0x10 = 0 ∧
    (0x512F : Word).toNat / 0x1000 = 0x5 ∧ (0x512F : Word).toNat % 0x10 ≠ 0 ∧
    (0x9120 : Word).toNat / 0x1000 = 0x9 ∧ (0x9120 : Word).toNat % 0x10 = 0 ∧
    (0x9121 : Word).toNat / 0x1000 = 0x9 ∧ (0x9121 : Word).toNat % 0x10 ≠ 0 ∧
    (0x1 : RegIdx) = (0x512F : Word).extractLsb' 8 4 ∧ (0x2 : RegIdx) = (0x9121 : Word).extractLsb' 4 4 := by
  decide

/-- A state whose pc is at the last word of memory, where 8126 stands. -/
def atLastWord : State := (fresh.setPc 0xFFE).withFetchWord 16 0x8126

/-- StepRunsTheDecodedInstruction. -/
theorem witness_step_runs : atLastWord.waiting = false ∧ atLastWord.pc.toNat + 1 ≤ 0xFFF ∧
    decodeBytes atLastWord.params.strictLowNibble
      [atLastWord.byteAt atLastWord.pc.toNat, atLastWord.byteAt (atLastWord.pc.toNat + 1)]
      = .ok (.shr 1 2, []) := by decide

/-- StepFollowsItsPseudocode: the waiting clause, and the fetch clause at the first pc it holds for. -/
theorem witness_step_waits_or_overruns : (fresh.setWaiting true).waiting = true ∧
    (fresh.setPc 0xFFF).waiting = false ∧ 0xFFF < (fresh.setPc 0xFFF).pc.toNat + 1 := by decide

/-- StepFollowsItsPseudocode: the clause of an illegal word. -/
theorem witness_step_illegal : fresh.waiting = false ∧ fresh.pc.toNat + 1 ≤ 0xFFF ∧
    decode fresh.params.strictLowNibble
      (fresh.byteAt fresh.pc.toNat ++ fresh.byteAt (fresh.pc.toNat + 1)) = .error .class0Word := by decide

/-- StepFollowsItsPseudocode: the clauses of an instruction that completes and of one that faults. -/
theorem witness_step_completes_or_faults :
    decode atLastWord.params.strictLowNibble
      (atLastWord.byteAt atLastWord.pc.toNat ++ atLastWord.byteAt (atLastWord.pc.toNat + 1))
      = .ok (.shr 1 2) ∧
    (∃ t, exec (.shr 1 2) (atLastWord.fetched 0x8126) = .next t) ∧
    exec .ret (fresh.fetched 0x00EE) = .fault (.boundsError .stackUnderflow) :=
  ⟨by decide, ⟨_, rfl⟩, rfl⟩

/-- RefusedStepIsReportedAndKeepsTheState: 8F14 under `refuse`. -/
theorem witness_step_refused : (refusing.withFetchWord 16 0x8F14).waiting = false ∧
    (refusing.withFetchWord 16 0x8F14).pc.toNat + 1 ≤ 0xFFF ∧
    decode (refusing.withFetchWord 16 0x8F14).params.strictLowNibble
      ((refusing.withFetchWord 16 0x8F14).byteAt 0x200 ++ (refusing.withFetchWord 16 0x8F14).byteAt 0x201)
      = .ok (.addReg 15 1) ∧
    exec (.addReg 15 1) ((refusing.withFetchWord 16 0x8F14).fetched
      ((refusing.withFetchWord 16 0x8F14).byteAt 0x200 ++ (refusing.withFetchWord 16 0x8F14).byteAt 0x201))
      = .refused .flagAlias := ⟨by decide, by decide, by decide, rfl⟩

/-- SuccessfulStepTicksTheTimers: a step that waits and a step that beeps. -/
theorem witness_step_ok : stepCall (fresh.setWaiting true) = .ok false (fresh.setWaiting true) ∧
    ∃ t, stepCall ((fresh.setSt 1).withFetchWord 16 0x6000) = .ok true t := ⟨by decide, _, rfl⟩

/-- FailingStepChangesOnlyOpcodeAndPc: the fetch error and another. -/
theorem witness_step_err :
    stepCall (fresh.setPc 0xFFF) = .err (.boundsError .fetch) (fresh.setPc 0xFFF) ∧
    ∃ t, stepCall fresh = .err .decodeError t := ⟨by decide, _, rfl⟩

/-- FlagRegisterHasOnlyTheListedWriters. -/
theorem witness_flag_written : ∃ t, exec (.addReg 1 2) (with2 1 0x80 2 0x80) = .next t ∧
    t.getV 0xF ≠ (with2 1 0x80 2 0x80).getV 0xF := ⟨_, rfl, by decide⟩

/-- ProgramCounterAdvancesAsListed and StepKeepsTheInvariant: a step from a state with the invariant. -/
theorem witness_step_next : (fresh.withFetchWord 16 0x2400).Inv ∧
    ∃ t, step (fresh.withFetchWord 16 0x2400) = .next t ∧ t.pc = 0x400 := ⟨by decide, _, rfl, by decide⟩

/-- EachPartHasOnlyItsWriters: a register that an instruction changes, VF by the flag beside it, and the last
register of a load. -/
theorem witness_register_written : (∃ t, exec (.addReg 1 2) (with2 1 0x80 2 0x80) = .next t ∧
      t.getV 1 ≠ (with2 1 0x80 2 0x80).getV 1 ∧ t.getV 15 ≠ (with2 1 0x80 2 0x80).getV 15) ∧
    ∃ t, exec (.ldVxMem 2) fresh = .next t ∧ t.getV 2 ≠ fresh.getV 2 :=
  ⟨⟨_, rfl, by decide, by decide⟩, _, rfl, by decide⟩

/-- EachPartHasOnlyItsWriters and ModelOwnFieldsMoveOnlyAsLogged. -/
theorem witness_exec_next : ∃ t, exec (.ldI 0x123) fresh = .next t ∧ t.i = 0x123 := ⟨_, rfl, by decide⟩

/-- KeyWaitIsATwoStateMachine: into the wait, out of it by a key and by construct, and a step within. -/
theorem witness_key_wait :
    ((fresh.withFetchWord 16 0xF30A).waiting = false ∧
      (hostTurn .step (fresh.withFetchWord 16 0xF30A)).after.waiting = true) ∧
    ((fresh.setWaiting true).waiting = true ∧
      (hostTurn (.supplyKey 15) (fresh.setWaiting true)).after.waiting = false ∧
      (hostTurn .construct (fresh.setWaiting true)).after.waiting = false) := by decide

/-- SelfJumpRepeatsItself. -/
theorem witness_self_jump : (fresh.withFetchWord 16 0x1200).waiting = false ∧
    (fresh.withFetchWord 16 0x1200).atSelfJump = true := by decide

/-- OnlyKeySkipsReadTheKeypad: Fx0A is among them. -/
theorem witness_not_a_key_skip : ∀ x, Instr.ldVxK 3 ≠ .skp x ∧ Instr.ldVxK 3 ≠ .sknp x := by simp

/-- PlacedWordIsTheOneRun. -/
theorem witness_placed : decode fresh.params.strictLowNibble (BitVec.ofNat 16 0x6FAB) =
    .ok (.ldByte 15 0xAB) := by decide

/-- StoredBytesAreFetched: V0 and V1 over the next instruction, which stands in the last word. -/
theorem witness_stored_fetched : ((atI 0xFFE).setPc 0xFFE).i.toNat + (1 : RegIdx).toNat ≤ 0xFFF ∧
    (0 : RegIdx).toNat + 1 = (1 : RegIdx).toNat ∧ (1 : RegIdx).toNat ≤ (1 : RegIdx).toNat ∧
    ((atI 0xFFE).setPc 0xFFE).pc.toNat = ((atI 0xFFE).setPc 0xFFE).i.toNat + (0 : RegIdx).toNat := by decide

/-- HostRunsKeepTheInvariant. -/
theorem witness_inv : fresh.Inv := by decide

/-- RetPopsTheReturnAddress and CallPushesTheAdvancedPc: their clauses at the ends of sp's range. -/
theorem witness_sp : fresh.sp.val = 0 ∧ (fresh.setSp 1).sp.val = (0 : Fin 16).val + 1 ∧
    (fresh.setSp 16).sp.val = (15 : Fin 16).val + 1 ∧ (fresh.setSp 16).sp.val = 16 ∧
    fresh.sp.val = (0 : Fin 16).val ∧ (fresh.setSp 15).sp.val = (15 : Fin 16).val := by decide

/-- JpSetsPc: the clause of the last byte. -/
theorem witness_jp : (0xFFF : Addr12) = 0xFFF ∧ fresh.waiting = false := by decide

/-- JpV0AddsV0WithoutWrapping: the clause of a target past the last word, at its first value. -/
theorem witness_jpV0 : ∃ t, exec (.jpV0 0xF00) (fresh.setV 0 0xFF) = .next t ∧
    0xFFF < t.pc.toNat + 1 ∧ (fresh.setV 0 0xFF).waiting = false := ⟨_, rfl, by decide, by decide⟩

/-- KeySkipsTestTheKeypad: both clauses where they meet. -/
theorem witness_key_skips : 15 < ((fresh.setV 1 16).getV 1).toNat ∧
    ((fresh.setV 1 15).getV 1).toNat = (15 : Fin 16).val := by decide

/-- The flag operations of the ALU: under `sampled` with VF an operand, and under `refuse` without. -/
theorem witness_flag_op : FlagOpRuns fresh [0xF, 0xF] ∧ FlagOpRuns refusing [0xE, 0x0] ∧
    FlagOpRuns refusing [0xE] := by unfold FlagOpRuns; decide

/-- The flag clause of the ALU statements: a destination that is not VF. -/
theorem witness_destination : (0xE : RegIdx) ≠ 0xF := by decide

/-- RndStoresAMaskedDraw: the clause of the zero mask. -/
theorem witness_zero_mask : (0 : Byte) = 0 := rfl

/-- The sprite statements: the tallest sprite, with a pixel it covers and one it does not. -/
theorem witness_sprite : (List.replicate 15 (0x80 : Byte)).length ≤ 15 ∧
    SpriteCovers (List.replicate 15 0x80) 63 31 63 31 ∧ ¬ SpriteCovers [] 63 31 63 31 :=
  ⟨by decide, ⟨0, 0, by decide, by decide, by decide, by decide, by decide⟩,
    by rintro ⟨r, b, h, -⟩; exact absurd h (Nat.not_lt_zero r)⟩

/-- DrwDrawsTheSpriteAtI: the error, the last sprite in memory, and the empty sprite past memory. -/
theorem witness_drw : (0 < (1 : BitVec 4).toNat ∧ 0xFFF < (atI 0x1000).i.toNat + (1 : BitVec 4).toNat - 1) ∧
    (atI 0xFFF).i.toNat + (1 : BitVec 4).toNat - 1 ≤ 0xFFF ∧
    (atI 0xFF1).i.toNat + (15 : BitVec 4).toNat - 1 ≤ 0xFFF ∧ (0 : BitVec 4).toNat = 0 := by decide

/-- LdBStoresTheDecimalDigits: both clauses where they meet. -/
theorem witness_ldB : 0xFFF < (atI 0xFFE).i.toNat + 2 ∧ (atI 0xFFD).i.toNat + 2 ≤ 0xFFF := by decide

/-- RegisterDumpIsInclusive and RegisterLoadIsInclusive: both clauses where they meet, and r = x. -/
theorem witness_transfer : 0xFFF < (atI 0xFF1).i.toNat + (0xF : RegIdx).toNat ∧
    (atI 0xFF0).i.toNat + (0xF : RegIdx).toNat ≤ 0xFFF ∧ (0xF : RegIdx).toNat ≤ (0xF : RegIdx).toNat := by
  decide

/-- LdVxKSuspendsUntilTheKey: the highest key. -/
theorem witness_key : (15 : Nat) ≤ 15 := by decide

end Sys2Proof.Tests
end

/-! ## The model's own fields: parameters, draws, beeps -/

namespace Sys2Proof.Machine

variable {s t : State}

/-- How many draws an instruction takes: one for Cxkk (R98), none for the others. -/
def drawsTaken : Instr → Nat
  | .rnd _ _ => 1
  | _ => 0

theorem drawsTaken_cases (i : Instr) :
    ((∃ x kk, i = .rnd x kk) ∧ drawsTaken i = 1) ∨
    ((∀ x kk, i ≠ .rnd x kk) ∧ drawsTaken i = 0) := by
  unfold drawsTaken
  split
  · exact .inl ⟨⟨_, _, rfl⟩, rfl⟩
  · next h => exact .inr ⟨h, rfl⟩

/-- From `s` to `t` the model's own fields have moved by `n` draws and nothing else. -/
structure TakesDraws (n : Nat) (s t : State) : Prop where
  params : t.params = s.params
  beeps : t.beeps = s.beeps
  draws : t.draws = s.draws + n

theorem State.skipIf_takesNoDraw (s : State) (c : Bool) : TakesDraws 0 s (s.skipIf c) := by
  rw [State.skipIf_eq]; exact ⟨rfl, rfl, rfl⟩

theorem State.loadRegs_takesNoDraw (s : State) (first : Nat) (bs : List Byte) :
    TakesDraws 0 s (s.loadRegs first bs) := by
  rw [State.loadRegs_eq]; exact ⟨rfl, rfl, rfl⟩

/-- A flag operation that answers a next state has only written the flag and the result. -/
theorem State.guardAlias_takesNoDraw {vf c : Bool} {x : RegIdx} {b : Byte}
    (h : s.guardAlias vf (.next (s.setFlagThen x c b)) = .next t) : TakesDraws 0 s t := by
  obtain ⟨-, ht⟩ := State.guardAlias_next.1 h
  obtain rfl := Host.Outcome.next.inj ht
  exact ⟨rfl, rfl, rfl⟩

/-- A transfer with memory that answers a next state answers the one it was given. -/
theorem checkBounds_takesDraws {a n m : Nat} {cause : BoundsCause} {u : State}
    (h : checkBounds a n cause (.next u) = .next t) (hu : TakesDraws m s u) : TakesDraws m s t := by
  obtain ⟨-, ht⟩ := checkBounds_next.1 h
  exact Host.Outcome.next.inj ht ▸ hu

/-- A key skip that answers a next state has at most skipped. -/
theorem State.keyHeld_takesNoDraw {b : Byte} {c : Bool → Bool}
    (h : s.keyHeld b (fun held => .next (s.skipIf (c held))) = .next t) : TakesDraws 0 s t := by
  obtain ⟨_, ht⟩ := State.keyHeld_next.1 h
  exact Host.Outcome.next.inj ht ▸ s.skipIf_takesNoDraw _

/-- What an instruction does to the model's own fields (log entries 1, 6 and 7). -/
theorem exec_takesDraws {i : Instr} (h : exec i s = .next t) : TakesDraws (drawsTaken i) s t := by
  cases i with
  | rnd | cls | jp | jpV0 | ldByte | addByte | ldReg | orReg | andReg | xorReg | ldI | addI | ldF
  | ldVxDt | ldVxK | ldDtVx | ldStVx =>
    obtain rfl := Host.Outcome.next.inj h
    exact ⟨rfl, rfl, rfl⟩
  | seByte | sneByte | seReg | sneReg =>
    obtain rfl := Host.Outcome.next.inj h
    exact s.skipIf_takesNoDraw _
  | skp => exact State.keyHeld_takesNoDraw (c := id) h
  | sknp => exact State.keyHeld_takesNoDraw (c := not) h
  | addReg | subReg | shr | subnReg | shl => exact State.guardAlias_takesNoDraw h
  | ret =>
    rw [exec, execRet, State.popReturn_next] at h
    obtain ⟨_, ht⟩ := h
    obtain rfl := Host.Outcome.next.inj ht
    exact ⟨rfl, rfl, rfl⟩
  | call =>
    rw [exec, execCall, State.pushReturn_next] at h
    obtain ⟨_, ht⟩ := h
    obtain rfl := Host.Outcome.next.inj ht
    exact ⟨rfl, rfl, rfl⟩
  | drw | ldB | ldMemVx => exact checkBounds_takesDraws h ⟨rfl, rfl, rfl⟩
  | ldVxMem => exact checkBounds_takesDraws h (s.loadRegs_takesNoDraw _ _)

theorem hostTurn_step_params (s : State) : (hostTurn .step s).after.params = s.params := by
  cases hc : stepCall s with
  | ok beep t =>
    rw [(hostTurn_step_ok hc).1]
    rcases stepCall_ok hc with ⟨-, rfl, -⟩ | ⟨-, -, i, u, -, he, rfl, -⟩
    · rfl
    · simpa using (exec_takesDraws he).params
  | err f t =>
    rw [(hostTurn_step_err hc).1]
    obtain ⟨-, ⟨-, -, rfl⟩ | ⟨-, rfl, -⟩⟩ := stepCall_err hc <;> rfl
  | refused r => rw [(hostTurn_step_refused hc).1]

/-- The parameters are fixed for the machine: no host operation changes them (R7; log entry 1). -/
theorem hostTurn_params (op : HostOp) (s : State) : (hostTurn op s).after.params = s.params := by
  cases op with
  | step => exact hostTurn_step_params s
  | loadRom bytes => simp only [hostTurn, hostLoadRom]; split <;> rfl
  | supplyKey k => simp only [hostTurn, hostSupplyKey]; split <;> rfl
  | construct | setKeypad | acknowledgeDraw | readFrameBuffer | readDrawRequest | readWaiting => rfl

/-- Settles O20: every host operation keeps the parameters, and exec takes the draws of its instruction. -/
theorem modelOwnFieldsMoveOnlyAsLogged : Obligations.ModelOwnFieldsMoveOnlyAsLogged := by
  refine ⟨hostTurn_params, fun i s t h => ?_⟩
  have ht := exec_takesDraws h
  refine ⟨ht.beeps, (drawsTaken_cases i).imp ?_ ?_⟩ <;> rintro ⟨hi, hn⟩
  · exact ⟨hi, by rw [ht.draws, hn]⟩
  · exact ⟨hi, by rw [ht.draws, hn, Nat.add_zero]⟩

end Sys2Proof.Machine

/-! ## The frame of every instruction: the parts it may write -/

namespace Sys2Proof.Machine

variable {s t u : State} {i : Instr}

/-- From `s` to `t` only the parts in `may` change, and where no byte of memory is among them the list of
cells is the same data. -/
structure Touches (s t : State) (may : Part → Prop) : Prop where
  parts : ChangesOnly s t may
  cells : (∀ a, ¬ may (.byte a)) → t.mem = s.mem

theorem SameAt.trans {p : Part} (h : SameAt s t p) (h' : SameAt t u p) : SameAt s u p := by
  cases p <;> exact Eq.trans h' h

theorem Touches.trans {P Q : Part → Prop} (h : Touches s t P) (h' : Touches t u Q) :
    Touches s u fun p => P p ∨ Q p where
  parts p hp := (h.parts p fun hP => hp (.inl hP)).trans (h'.parts p fun hQ => hp (.inr hQ))
  cells hb := (h'.cells fun a hQ => hb a (.inr hQ)).trans (h.cells fun a hP => hb a (.inl hP))

theorem Touches.mono {P Q : Part → Prop} (h : Touches s t P) (hPQ : ∀ p, P p → Q p) :
    Touches s t Q where
  parts p hp := h.parts p (hp ∘ hPQ p)
  cells hb := h.cells fun a => hb a ∘ hPQ _

/-! ### One rule per operation on the state -/

theorem State.setV_touches (s : State) (r : RegIdx) (b : Byte) :
    Touches s (s.setV r b) (· = .reg r) where
  parts p hp := by
    cases p with
    | reg q => exact s.getV_setV_of_ne b fun hq => hp (by rw [hq])
    | _ => rfl
  cells _ := rfl

theorem State.setI_touches (s : State) (w : Word) : Touches s (s.setI w) (· = .index) where
  parts p hp := by cases p with | index => exact absurd rfl hp | _ => rfl
  cells _ := rfl

theorem State.setPc_touches (s : State) (w : Word) : Touches s (s.setPc w) (· = .pc) where
  parts p hp := by cases p with | pc => exact absurd rfl hp | _ => rfl
  cells _ := rfl

theorem State.setDt_touches (s : State) (b : Byte) : Touches s (s.setDt b) (· = .delayTimer) where
  parts p hp := by cases p with | delayTimer => exact absurd rfl hp | _ => rfl
  cells _ := rfl

theorem State.setSt_touches (s : State) (b : Byte) : Touches s (s.setSt b) (· = .soundTimer) where
  parts p hp := by cases p with | soundTimer => exact absurd rfl hp | _ => rfl
  cells _ := rfl

theorem State.setFb_touches (s : State) (fb : FrameBuffer) :
    Touches s (s.setFb fb) (fun p => ∃ x y, p = .pixel x y) where
  parts p hp := by cases p with | pixel x y => exact absurd ⟨x, y, rfl⟩ hp | _ => rfl
  cells _ := rfl

theorem State.setDrawRequest_touches (s : State) (b : Bool) :
    Touches s (s.setDrawRequest b) (· = .drawRequest) where
  parts p hp := by cases p with | drawRequest => exact absurd rfl hp | _ => rfl
  cells _ := rfl

theorem State.setWaiting_touches (s : State) (b : Bool) :
    Touches s (s.setWaiting b) (· = .waiting) where
  parts p hp := by cases p with | waiting => exact absurd rfl hp | _ => rfl
  cells _ := rfl

theorem State.setWaitReg_touches (s : State) (x : RegIdx) :
    Touches s (s.setWaitReg x) (· = .waitReg) where
  parts p hp := by cases p with | waitReg => exact absurd rfl hp | _ => rfl
  cells _ := rfl

theorem State.setStack_touches (s : State) (k : Fin 16) (w : Word) :
    Touches s (s.setStack k w) (· = .stackEntry k) where
  parts p hp := by
    cases p with
    | stackEntry j => exact Vector.getElem_set_ne k.isLt j.isLt fun hk => hp (by rw [Fin.ext hk])
    | _ => rfl
  cells _ := rfl

theorem State.setSp_touches (s : State) (k : Fin 17) : Touches s (s.setSp k) (· = .sp) where
  parts p hp := by cases p with | sp => exact absurd rfl hp | _ => rfl
  cells _ := rfl

theorem State.takeDraw_touches (s : State) : Touches s s.takeDraw fun _ => False where
  parts p _ := by cases p <;> rfl
  cells _ := rfl

theorem State.storeBytes_touches (s : State) (a : Nat) (bs : List Byte) :
    Touches s (s.storeBytes a bs) fun p => ∃ x, p = .byte x ∧ a ≤ x ∧ x < a + bs.length where
  parts p hp := by
    cases p with
    | byte x =>
      have hx : ¬(a ≤ x ∧ x < a + bs.length) := fun hx => hp ⟨x, rfl, hx⟩
      exact (s.byteAt_storeBytes a bs x).trans (dif_neg hx)
    | _ => rfl
  cells hb := by
    cases bs with
    | nil => rfl
    | cons b bs => exact absurd ⟨a, rfl, Nat.le_refl a, by simp⟩ (hb a)

theorem State.loadRegs_touches (s : State) (bs : List Byte) (hroom : bs.length ≤ 16) :
    Touches s (s.loadRegs 0 bs) fun p => ∃ r : RegIdx, p = .reg r ∧ r.toNat < bs.length where
  parts p hp := by
    cases p with
    | reg r =>
      have hr : ¬(0 ≤ r.toNat ∧ r.toNat < 0 + bs.length) := fun hr => hp ⟨r, rfl, by omega⟩
      exact (State.getV_loadRegs bs s 0 r (by omega)).trans (dif_neg hr)
    | _ => rw [State.loadRegs_eq]; rfl
  cells _ := by rw [State.loadRegs_eq]

theorem State.skipIf_touches (s : State) (c : Bool) : Touches s (s.skipIf c) (· = .pc) := by
  rw [State.skipIf_eq]; exact s.setPc_touches _

theorem State.setFlagThen_touches (s : State) (x : RegIdx) (c : Bool) (b : Byte) :
    Touches s (s.setFlagThen x c b) fun p => p = .reg flagReg ∨ p = .reg x :=
  (s.setV_touches _ _).trans (State.setV_touches _ _ _)

/-! ### An operation that can end in an error or a refusal answers the state it was given -/

theorem eq_of_checkBounds {a n : Nat} {cause : BoundsCause}
    (h : checkBounds a n cause (.next u) = .next t) : t = u :=
  (Host.Outcome.next.inj (checkBounds_next.1 h).2).symm

theorem State.eq_of_guardAlias {vf : Bool} (h : s.guardAlias vf (.next u) = .next t) : t = u :=
  (Host.Outcome.next.inj (State.guardAlias_next.1 h).2).symm

theorem State.eq_of_keyHeld {b : Byte} {g : Bool → State}
    (h : s.keyHeld b (fun held => .next (g held)) = .next t) : ∃ held, t = g held := by
  obtain ⟨_, ht⟩ := State.keyHeld_next.1 h
  exact ⟨_, (Host.Outcome.next.inj ht).symm⟩

theorem execCall_next {nnn : Addr12} (h : execCall nnn s = .next t) :
    ∃ hsp : s.sp.val < 16, t = ((s.setStack ⟨s.sp.val, hsp⟩ s.pc).setSp
      ⟨s.sp.val + 1, Nat.succ_lt_succ hsp⟩).setPc (addrOperand nnn) := by
  obtain ⟨hsp, ht⟩ := State.pushReturn_next.1 h
  exact ⟨hsp, (Host.Outcome.next.inj ht).symm⟩

theorem execRet_next (h : execRet s = .next t) :
    ∃ hsp : 0 < s.sp.val, t = (s.setSp ⟨s.sp.val - 1, by omega⟩).setPc s.stack[s.sp.val - 1] := by
  obtain ⟨hsp, ht⟩ := State.popReturn_next.1 h
  exact ⟨hsp, (Host.Outcome.next.inj ht).symm⟩

/-! ### Every instruction -/

/-- The parts an instruction may write in a state (10_state.md R14 to R29, 20_memory.md R38). -/
def writes (s : State) : Instr → Part → Prop
  | .cls => fun p => (∃ x y, p = .pixel x y) ∨ p = .drawRequest
  | .ret => fun p => p = .sp ∨ p = .pc
  | .call _ => fun p => ((∃ k, k.val = s.sp.val ∧ p = .stackEntry k) ∨ p = .sp) ∨ p = .pc
  | .jp _ | .jpV0 _ | .seByte _ _ | .sneByte _ _ | .seReg _ _ | .sneReg _ _ | .skp _ | .sknp _ =>
    (· = .pc)
  | .ldByte x _ | .addByte x _ | .ldReg x _ | .orReg x _ | .andReg x _ | .xorReg x _ | .rnd x _
  | .ldVxDt x => (· = .reg x)
  | .addReg x _ | .subReg x _ | .shr x _ | .subnReg x _ | .shl x _ =>
    fun p => p = .reg flagReg ∨ p = .reg x
  | .ldI _ | .addI _ | .ldF _ => (· = .index)
  | .drw _ _ _ => fun p => (p = .reg flagReg ∨ ∃ x y, p = .pixel x y) ∨ p = .drawRequest
  | .ldVxK _ => fun p => p = .waiting ∨ p = .waitReg
  | .ldDtVx _ => (· = .delayTimer)
  | .ldStVx _ => (· = .soundTimer)
  | .ldB _ => fun p => ∃ a, p = .byte a ∧ s.i.toNat ≤ a ∧ a < s.i.toNat + 3
  | .ldMemVx x => fun p => ∃ a, p = .byte a ∧ s.i.toNat ≤ a ∧ a < s.i.toNat + (x.toNat + 1)
  | .ldVxMem x => fun p => ∃ r : RegIdx, p = .reg r ∧ r.toNat < x.toNat + 1

/-- An instruction that answers a next state has changed only the parts it may write. -/
theorem exec_touches (h : exec i s = .next t) : Touches s t (writes s i) := by
  cases i with
  | ldByte | addByte | ldReg | orReg | andReg | xorReg | ldVxDt =>
    obtain rfl := Host.Outcome.next.inj h
    exact s.setV_touches _ _
  | rnd =>
    obtain rfl := Host.Outcome.next.inj h
    exact (s.takeDraw_touches.trans (State.setV_touches _ _ _)).mono fun _ hp => hp.resolve_left id
  | addReg | subReg | shr | subnReg | shl =>
    obtain rfl := State.eq_of_guardAlias h
    exact s.setFlagThen_touches _ _ _
  | ldI | addI | ldF =>
    obtain rfl := Host.Outcome.next.inj h
    exact s.setI_touches _
  | jp | jpV0 =>
    obtain rfl := Host.Outcome.next.inj h
    exact s.setPc_touches _
  | seByte | sneByte | seReg | sneReg =>
    obtain rfl := Host.Outcome.next.inj h
    exact s.skipIf_touches _
  | skp =>
    obtain ⟨held, rfl⟩ := State.eq_of_keyHeld (g := s.skipIf) h
    exact s.skipIf_touches _
  | sknp =>
    obtain ⟨held, rfl⟩ := State.eq_of_keyHeld (g := fun held => s.skipIf !held) h
    exact s.skipIf_touches _
  | call nnn =>
    obtain ⟨hsp, rfl⟩ := execCall_next h
    refine (((s.setStack_touches _ _).mono ?_).trans (State.setSp_touches _ _)).trans
      (State.setPc_touches _ _)
    exact fun _ hp => ⟨⟨s.sp.val, hsp⟩, rfl, hp⟩
  | ret =>
    obtain ⟨_, rfl⟩ := execRet_next h
    exact (s.setSp_touches _).trans (State.setPc_touches _ _)
  | cls =>
    obtain rfl := Host.Outcome.next.inj h
    exact (s.setFb_touches _).trans (State.setDrawRequest_touches _ _)
  | drw =>
    obtain rfl := eq_of_checkBounds h
    exact ((s.setV_touches _ _).trans (State.setFb_touches _ _)).trans
      (State.setDrawRequest_touches _ _)
  | ldVxK =>
    obtain rfl := Host.Outcome.next.inj h
    exact (s.setWaiting_touches _).trans (State.setWaitReg_touches _ _)
  | ldDtVx =>
    obtain rfl := Host.Outcome.next.inj h
    exact s.setDt_touches _
  | ldStVx =>
    obtain rfl := Host.Outcome.next.inj h
    exact s.setSt_touches _
  | ldB x =>
    obtain rfl := eq_of_checkBounds h
    exact s.storeBytes_touches _ (bcdDigits (s.getV x))
  | ldMemVx x =>
    obtain rfl := eq_of_checkBounds h
    simpa [writes, regCount, State.indexed] using
      s.storeBytes_touches (s.indexed 0) (s.dumpRegs (regCount x))
  | ldVxMem x =>
    obtain rfl := eq_of_checkBounds h
    have hlen : (s.bytesAt (s.indexed 0) (regCount x)).length = x.toNat + 1 := State.length_bytesAt ..
    simpa only [writes, hlen] using s.loadRegs_touches (s.bytesAt (s.indexed 0) (regCount x)) (by omega)

theorem exec_keeps {p : Part} (h : exec i s = .next t) (hp : ¬ writes s i p) : SameAt s t p :=
  (exec_touches h).parts p hp

theorem exec_writes_or_keeps (h : exec i s = .next t) (p : Part) : writes s i p ∨ SameAt s t p :=
  or_iff_not_imp_left.2 (exec_keeps h)

end Sys2Proof.Machine

/-! ## Where an instruction leaves pc -/

namespace Sys2Proof.Machine

variable {s t : State} {i : Instr}

/-- The skips of 42_skips.md. -/
def IsSkip (i : Instr) : Prop :=
  (∃ x kk, i = .seByte x kk ∨ i = .sneByte x kk) ∨ (∃ x y, i = .seReg x y ∨ i = .sneReg x y) ∨
    ∃ x, i = .skp x ∨ i = .sknp x

/-- No transfer of 41_control_flow.md. -/
def NoTransfer (i : Instr) : Prop :=
  i ≠ .ret ∧ ∀ nnn, i ≠ .jp nnn ∧ i ≠ .call nnn ∧ i ≠ .jpV0 nnn

/-- The ways an instruction run on `s`, whose pc is already past the word, can set pc to `w`
(10_state.md R18). -/
inductive PcMove (s : State) (i : Instr) (w : Word) : Prop where
  | stays (hi : NoTransfer i) (hw : w = s.pc)
  | skips (hi : IsSkip i) (hw : w = s.pc + 2)
  | jumps (nnn : Addr12) (hi : i = .jp nnn ∨ i = .call nnn) (hw : w = addrOperand nnn)
  | jumpsByV0 (nnn : Addr12) (hi : i = .jpV0 nnn) (hw : w = addrOperand nnn + wordOfByte (s.getV 0))
  | returns (hi : i = .ret) (hsp : 0 < s.sp.val) (hw : w = s.stack[s.sp.val - 1])

theorem noTransfer_of_isSkip (hi : IsSkip i) : NoTransfer i := by
  obtain ⟨x, kk, rfl | rfl⟩ | ⟨x, y, rfl | rfl⟩ | ⟨x, rfl | rfl⟩ := hi <;> simp [NoTransfer]

theorem pcMove_skipIf (hi : IsSkip i) (c : Bool) : PcMove s i (s.skipIf c).pc := by
  cases c with
  | false => exact .stays (noTransfer_of_isSkip hi) rfl
  | true => exact .skips hi rfl

theorem exec_pc (h : exec i s = .next t) : PcMove s i t.pc := by
  cases i with
  | jp nnn => obtain rfl := Host.Outcome.next.inj h; exact .jumps nnn (.inl rfl) rfl
  | jpV0 nnn => obtain rfl := Host.Outcome.next.inj h; exact .jumpsByV0 nnn rfl rfl
  | call nnn => obtain ⟨_, rfl⟩ := execCall_next h; exact .jumps nnn (.inr rfl) rfl
  | ret => obtain ⟨hsp, rfl⟩ := execRet_next h; exact .returns rfl hsp rfl
  | seByte | sneByte | seReg | sneReg =>
    obtain rfl := Host.Outcome.next.inj h
    exact pcMove_skipIf (by simp [IsSkip]) _
  | skp =>
    obtain ⟨held, rfl⟩ := State.eq_of_keyHeld (g := s.skipIf) h
    exact pcMove_skipIf (by simp [IsSkip]) _
  | sknp =>
    obtain ⟨held, rfl⟩ := State.eq_of_keyHeld (g := fun held => s.skipIf !held) h
    exact pcMove_skipIf (by simp [IsSkip]) _
  | _ => exact .stays (by simp [NoTransfer]) (exec_keeps h (p := .pc) (by simp [writes]))

theorem addrOperand_toNat (nnn : Addr12) : (addrOperand nnn).toNat = nnn.toNat :=
  BitVec.toNat_setWidth_of_le (by decide)

/-- The target of Bnnn is not reduced (41_control_flow.md R77). -/
theorem addrOperand_add_wordOfByte_toNat (nnn : Addr12) (b : Byte) :
    (addrOperand nnn + wordOfByte b).toNat = nnn.toNat + b.toNat := by
  have hb : (wordOfByte b).toNat = b.toNat := BitVec.toNat_setWidth_of_le (by decide)
  rw [BitVec.toNat_add, addrOperand_toNat, hb]
  omega

/-- Settles O18: the fetch moves pc past the word, and the instruction moves it as `PcMove` says. -/
theorem programCounterAdvancesAsListed : Obligations.ProgramCounterAdvancesAsListed := by
  intro s s' h
  obtain ⟨hw, rfl⟩ | ⟨hw, -, i, t, hd, he, rfl⟩ := step_next h
  · exact .inl ⟨hw, rfl⟩
  · refine .inr ⟨hw, i, hd, ?_⟩
    rw [State.tick_pc]
    cases exec_pc he with
    | stays hi hw => exact .inl ⟨hw, hi⟩
    | skips hi hw => exact .inr (.inl ⟨hw.trans (BitVec.add_assoc s.pc 2 2), hi⟩)
    | jumps nnn hi hw => exact .inr (.inr (.inl ⟨nnn, hi, by rw [hw, addrOperand_toNat]⟩))
    | jumpsByV0 nnn hi hw =>
      refine .inr (.inr (.inr (.inl ⟨nnn, hi, ?_⟩)))
      rw [hw, addrOperand_add_wordOfByte_toNat, State.getV_fetched]
    | returns hi hsp hw =>
      have hlt : s.sp.val - 1 < 16 := by omega
      exact .inr (.inr (.inr (.inr ⟨hi, hlt, hsp, hw⟩)))

end Sys2Proof.Machine

/-! ## The invariant -/

namespace Sys2Proof.Machine

variable {s t : State} {i : Instr}

/-- A stack entry after an instruction is as it was, or the pc that a CALL pushed (R76). -/
theorem exec_stackEntry (h : exec i s = .next t) (k : Fin 16) :
    t.stack[k] = s.stack[k] ∨ t.stack[k] = s.pc := by
  cases i with
  | call nnn =>
    obtain ⟨hsp, rfl⟩ := execCall_next h
    simp only [State.setPc_stack, State.setSp_stack, State.setStack_stack, Fin.getElem_fin,
      Vector.getElem_set]
    split
    · exact .inr rfl
    · exact .inl rfl
  | _ => exact .inl (exec_keeps h (p := .stackEntry k) (by simp [writes]))

/-- A store that passed its bounds check keeps memory canonical. -/
theorem wf_of_checkBounds_storeBytes {a n : Nat} {bs : List Byte} {cause : BoundsCause}
    (h : checkBounds a n cause (.next (s.storeBytes a bs)) = .next t) (hn : n ≠ 0)
    (hlen : bs.length = n) (hm : Memory.wf s.params s.mem) : Memory.wf t.params t.mem := by
  obtain ⟨hb, ht⟩ := checkBounds_next.1 h
  obtain rfl := Host.Outcome.next.inj ht
  exact Memory.wf_writeAll hm (by simp only [Config.memSize]; omega)

theorem exec_keeps_wf (h : exec i s = .next t) (hm : Memory.wf s.params s.mem) :
    Memory.wf t.params t.mem := by
  cases i with
  | ldB x => exact wf_of_checkBounds_storeBytes h (by decide) rfl hm
  | ldMemVx x => exact wf_of_checkBounds_storeBytes h (Nat.succ_ne_zero _) (State.length_dumpRegs ..) hm
  | _ =>
    rw [(exec_takesDraws h).params, (exec_touches h).cells (by simp [writes])]
    exact hm

/-- The bound on pc holds because the fetch left it at most 0x1000 (40_step_cycle.md R66). -/
theorem exec_keeps_inv (h : exec i s = .next t) (hpc : s.pc.toNat ≤ 0x1000) (hs : s.Inv) : t.Inv := by
  obtain ⟨-, hstack, hm⟩ := hs
  refine ⟨?_, fun k => ?_, exec_keeps_wf h hm⟩
  · cases exec_pc h with
    | stays _ hw => rw [hw]; omega
    | skips _ hw => rw [hw]; bv_omega
    | jumps nnn _ hw => rw [hw, addrOperand_toNat]; omega
    | jumpsByV0 nnn _ hw => rw [hw, addrOperand_add_wordOfByte_toNat]; omega
    | returns _ hsp hw =>
      have hpop := hstack ⟨s.sp.val - 1, by omega⟩
      rw [hw]
      exact hpop.trans (by decide)
  · obtain hk | hk := exec_stackEntry h k
    · rw [hk]; exact hstack k
    · rw [hk]; exact hpc

theorem State.fetched_pc_le (hb : s.fetchInBounds = true) (w : Word) :
    (s.fetched w).pc.toNat ≤ 0x1000 := by
  have hpc := s.fetchInBounds_iff.1 hb
  rw [State.fetched_pc]
  bv_omega

/-- The state after a fetch in bounds, which is also the one an error leaves (60_exceptions.md R118). -/
theorem State.fetched_inv (hb : s.fetchInBounds = true) (w : Word) (hs : s.Inv) : (s.fetched w).Inv :=
  ⟨(State.fetched_pc_le hb w).trans (by decide), hs.2⟩

/-- Settles O28: a waiting step keeps the state, and any other runs an instruction on a fetched state. -/
theorem stepKeepsTheInvariant : Obligations.StepKeepsTheInvariant := by
  intro s s' hs h
  obtain ⟨-, rfl⟩ | ⟨-, hb, i, t, -, he, rfl⟩ := step_next h
  · exact hs
  · have ht : t.Inv := exec_keeps_inv he (State.fetched_pc_le hb _) (State.fetched_inv hb _ hs)
    exact ht

theorem construct_inv (p : Config.Params) : (State.construct p).Inv :=
  ⟨show 0x200 ≤ 0x10FE by decide, fun k => by simp [State.construct], Memory.wf_nil p⟩

/-- Settles O27: nothing is listed and pc is the load address. -/
theorem resetMeetsTheInvariant : Obligations.ResetMeetsTheInvariant :=
  ⟨construct_inv _, construct_inv⟩

theorem hostTurn_step_inv (hs : s.Inv) : (hostTurn .step s).after.Inv := by
  cases hc : stepCall s with
  | ok beep t =>
    obtain ⟨hturn, hstep⟩ := hostTurn_step_ok hc
    rw [hturn]
    exact stepKeepsTheInvariant s t hs hstep
  | err f t =>
    rw [(hostTurn_step_err hc).1]
    obtain ⟨-, ⟨-, -, rfl⟩ | ⟨hb, rfl, -⟩⟩ := stepCall_err hc
    · exact hs
    · exact State.fetched_inv hb _ hs
  | refused r => rw [(hostTurn_step_refused hc).1]; exact hs

/-- A ROM that load_rom accepts ends inside memory (70_reset_and_hazards.md R135). -/
theorem hostTurn_loadRom_inv (bytes : List Byte) (hs : s.Inv) :
    (hostTurn (.loadRom bytes) s).after.Inv := by
  obtain ⟨hpc, hstack, hm⟩ := hs
  simp only [hostTurn, hostLoadRom]
  split
  · next hrom =>
    have hlen : bytes.length ≤ Config.romCapacity := by simpa [romWellFormed] using hrom
    exact ⟨hpc, hstack, Memory.wf_writeAll hm (Nat.add_le_of_le_sub' (by decide) hlen)⟩
  · exact ⟨hpc, hstack, hm⟩

theorem hostTurn_inv (op : HostOp) (hs : s.Inv) : (hostTurn op s).after.Inv := by
  cases op with
  | construct => exact construct_inv s.params
  | loadRom bytes => exact hostTurn_loadRom_inv bytes hs
  | step => exact hostTurn_step_inv hs
  | supplyKey k => simp only [hostTurn, hostSupplyKey]; split <;> exact hs
  | setKeypad | acknowledgeDraw | readFrameBuffer | readDrawRequest | readWaiting => exact hs

/-- Settles O29: induction on the run, one host operation at a time. -/
theorem hostRunsKeepTheInvariant : Obligations.HostRunsKeepTheInvariant := by
  intro ops
  induction ops with
  | nil => exact fun _ hs => hs
  | cons op ops ih => exact fun s hs => ih _ (hostTurn_inv op hs)

end Sys2Proof.Machine

/-! ## The writers of each part of the state -/

namespace Sys2Proof.Machine

variable {s t : State} {i : Instr}

/-- R14's table, with the implicit writers of VF (10_state.md R14, R15). -/
theorem writes_reg {r : RegIdx} (h : writes s i (.reg r)) :
    (∃ kk, i = .ldByte r kk ∨ i = .addByte r kk ∨ i = .rnd r kk) ∨
    (∃ y, i = .ldReg r y ∨ i = .orReg r y ∨ i = .andReg r y ∨ i = .xorReg r y) ∨
    (∃ x y, (x = r ∨ r = 0xF) ∧
      (i = .addReg x y ∨ i = .subReg x y ∨ i = .subnReg x y ∨ i = .shr x y ∨ i = .shl x y)) ∨
    (r = 0xF ∧ ∃ x y n, i = .drw x y n) ∨ i = .ldVxDt r ∨
    ∃ x : RegIdx, r.toNat ≤ x.toNat ∧ i = .ldVxMem x := by
  cases i with
  | ldByte _ kk | addByte _ kk | rnd _ kk =>
    obtain rfl := Part.reg.inj h
    exact .inl ⟨kk, by simp⟩
  | ldReg _ y | orReg _ y | andReg _ y | xorReg _ y =>
    obtain rfl := Part.reg.inj h
    exact .inr (.inl ⟨y, by simp⟩)
  | addReg x y | subReg x y | shr x y | subnReg x y | shl x y =>
    have hr : x = r ∨ r = 0xF := h.symm.imp (fun hx => (Part.reg.inj hx).symm) Part.reg.inj
    exact .inr (.inr (.inl ⟨x, y, hr, by simp⟩))
  | drw x y n =>
    have hr : r = 0xF := by simpa [writes, flagReg] using h
    exact .inr (.inr (.inr (.inl ⟨hr, x, y, n, rfl⟩)))
  | ldVxDt =>
    obtain rfl := Part.reg.inj h
    exact .inr (.inr (.inr (.inr (.inl rfl))))
  | ldVxMem x =>
    obtain ⟨q, hq, hle⟩ := h
    obtain rfl := Part.reg.inj hq
    exact .inr (.inr (.inr (.inr (.inr ⟨x, Nat.lt_succ_iff.1 hle, rfl⟩))))
  | _ => simp [writes] at h

theorem writes_drawRequest (h : writes s i .drawRequest) : i = .cls ∨ ∃ x y n, i = .drw x y n := by
  cases i <;> simp [writes] at h ⊢

theorem writes_pixel {x : Fin 64} {y : Fin 32} (h : writes s i (.pixel x y)) :
    i = .cls ∨ ∃ x y n, i = .drw x y n := by
  cases i <;> simp [writes] at h ⊢

theorem writes_waiting (h : writes s i .waiting) : ∃ x, i = .ldVxK x := by
  cases i <;> simp [writes] at h ⊢

theorem writes_waitReg (h : writes s i .waitReg) : ∃ x, i = .ldVxK x := by
  cases i <;> simp [writes] at h ⊢

theorem writes_stackEntry {k : Fin 16} (h : writes s i (.stackEntry k)) : ∃ nnn, i = .call nnn := by
  cases i <;> simp [writes] at h ⊢

theorem writes_sp (h : writes s i .sp) : (∃ nnn, i = .call nnn) ∨ i = .ret := by
  cases i <;> simp [writes] at h ⊢

theorem writes_index (h : writes s i .index) :
    (∃ nnn, i = .ldI nnn) ∨ ∃ x, i = .addI x ∨ i = .ldF x := by
  cases i <;> simp [writes] at h ⊢

theorem writes_delayTimer (h : writes s i .delayTimer) : ∃ x, i = .ldDtVx x := by
  cases i <;> simp [writes] at h ⊢

theorem writes_soundTimer (h : writes s i .soundTimer) : ∃ x, i = .ldStVx x := by
  cases i <;> simp [writes] at h ⊢

theorem writes_byte {a : Nat} (h : writes s i (.byte a)) : ∃ x, i = .ldB x ∨ i = .ldMemVx x := by
  cases i <;> simp [writes] at h ⊢

theorem not_writes_opcode : ¬ writes s i .opcode := by cases i <;> simp [writes]

theorem not_writes_key (k : Fin 16) : ¬ writes s i (.key k) := by cases i <;> simp [writes]

/-! ### The fields of the state, whole -/

theorem exec_opcode (h : exec i s = .next t) : t.opcode = s.opcode :=
  exec_keeps h not_writes_opcode

theorem exec_keys (h : exec i s = .next t) : t.keys = s.keys :=
  Vector.ext fun k hk => exec_keeps h (not_writes_key ⟨k, hk⟩)

theorem exec_stack (h : exec i s = .next t) (hi : ¬ ∃ nnn, i = .call nnn) : t.stack = s.stack :=
  Vector.ext fun k hk => exec_keeps (p := .stackEntry ⟨k, hk⟩) h (hi ∘ writes_stackEntry)

theorem exec_fb (h : exec i s = .next t) (hi : ¬(i = .cls ∨ ∃ x y n, i = .drw x y n)) : t.fb = s.fb :=
  Vector.ext fun x hx => Vector.ext fun y hy =>
    exec_keeps (p := .pixel ⟨x, hx⟩ ⟨y, hy⟩) h (hi ∘ writes_pixel)

/-- The two writers of the draw-request flag set it (45_display.md R99, R101). -/
theorem exec_sets_drawRequest (h : exec i s = .next t) (hi : i = .cls ∨ ∃ x y n, i = .drw x y n) :
    t.drawRequest = true := by
  obtain rfl | ⟨x, y, n, rfl⟩ := hi
  · obtain rfl := Host.Outcome.next.inj h
    rfl
  · obtain rfl := eq_of_checkBounds h
    rfl

/-- Settles O17: VF changes only by an instruction that may write register 15, and those are R14's. -/
theorem flagRegisterHasOnlyTheListedWriters : Obligations.FlagRegisterHasOnlyTheListedWriters := by
  intro i s t h hne
  have hw : writes s i (.reg 0xF) := (exec_writes_or_keeps h _).resolve_right hne
  obtain hi | hi | ⟨x, y, -, hi⟩ | ⟨-, hi⟩ | hi | ⟨x, hx, rfl⟩ := writes_reg hw
  · exact .inr (.inr (.inl hi))
  · exact .inr (.inr (.inr (.inl hi)))
  · exact .inl ⟨x, y, hi⟩
  · exact .inr (.inl hi)
  · exact .inr (.inr (.inr (.inr (.inl hi))))
  · have hF : x = 0xF := BitVec.eq_of_toNat_eq (Nat.le_antisymm (Nat.le_of_lt_succ x.isLt) hx)
    exact .inr (.inr (.inr (.inr (.inr (by rw [hF])))))

/-- Settles O19: part by part, the writers by `exec_touches` and the values of pc by `exec_pc`. -/
theorem eachPartHasOnlyItsWriters : Obligations.EachPartHasOnlyItsWriters := by
  intro i s t h
  have keepsOr := exec_writes_or_keeps h
  refine ⟨fun r hr => writes_reg ((keepsOr (.reg r)).resolve_right hr), ?pc, exec_opcode h, exec_keys h,
    ?drawRequestStays, ?wait, ?screen, ?stack, ?sp, ?index,
    (keepsOr .delayTimer).imp_left writes_delayTimer,
    (keepsOr .soundTimer).imp_left writes_soundTimer, ?memory⟩
  case pc =>
    cases exec_pc h with
    | stays _ hw => exact .inl hw
    | skips hi hw => exact .inr (.inl ⟨hw, hi⟩)
    | jumps nnn hi _ => exact .inr (.inr (.inl ⟨nnn, by tauto⟩))
    | jumpsByV0 nnn hi _ => exact .inr (.inr (.inl ⟨nnn, .inr (.inr hi)⟩))
    | returns hi => exact .inr (.inr (.inr hi))
  case drawRequestStays =>
    intro hs
    obtain hw | hk := keepsOr .drawRequest
    · exact exec_sets_drawRequest h (writes_drawRequest hw)
    · exact Eq.trans hk hs
  case wait =>
    refine or_iff_not_imp_left.2 fun hi => ⟨?_, ?_⟩
    · exact exec_keeps (p := .waiting) h (hi ∘ writes_waiting)
    · exact exec_keeps (p := .waitReg) h (hi ∘ writes_waitReg)
  case screen =>
    rw [← or_assoc]
    refine or_iff_not_imp_left.2 fun hi => ⟨?_, exec_fb h hi⟩
    exact exec_keeps (p := .drawRequest) h (hi ∘ writes_drawRequest)
  case stack => exact or_iff_not_imp_left.2 (exec_stack h)
  case sp => exact or_assoc.1 ((keepsOr .sp).imp_left writes_sp)
  case index => exact or_assoc.1 ((keepsOr .index).imp_left writes_index)
  case memory => exact or_iff_not_imp_left.2 fun hi a => exec_keeps h (hi ∘ writes_byte)

end Sys2Proof.Machine

/-! ## Fields that no instruction reads -/

namespace Sys2Proof.Machine

variable {s t : State} {i : Instr}

/-- Another value in one field: the three that no instruction reads, and the keypad, which only Ex9E and
ExA1 read (10_state.md R21, R22, R26, R28). -/
inductive Overwrite where
  | opcode (w : Word)
  | drawRequest (d : Bool)
  | soundTimer (b : Byte)
  | keypad (ks : Vector Bool 16)

def Overwrite.apply : Overwrite → State → State
  | .opcode w, s => s.setOpcode w
  | .drawRequest d, s => s.setDrawRequest d
  | .soundTimer b, s => s.setSt b
  | .keypad ks, s => s.setKeys ks

/-! ### A change of the answer passes through the operations that can end in an error or a refusal -/

@[simp] theorem mapNext_next (f : State → State) (t : State) : mapNext f (.next t) = .next (f t) := rfl

theorem mapNext_checkBounds (f : State → State) (a n : Nat) (cause : BoundsCause) (k : Result) :
    mapNext f (checkBounds a n cause k) = checkBounds a n cause (mapNext f k) := by
  unfold checkBounds; split <;> rfl

theorem mapNext_guardAlias (f : State → State) (s : State) (vf : Bool) (k : Result) :
    mapNext f (s.guardAlias vf k) = s.guardAlias vf (mapNext f k) := by
  unfold State.guardAlias; split <;> rfl

theorem mapNext_pushReturn (f : State → State) (s : State) (k : State → Result) :
    mapNext f (s.pushReturn k) = s.pushReturn fun t => mapNext f (k t) := by
  unfold State.pushReturn; split <;> rfl

theorem mapNext_popReturn (f : State → State) (s : State) (k : Word → State → Result) :
    mapNext f (s.popReturn k) = s.popReturn fun w t => mapNext f (k w t) := by
  unfold State.popReturn; split <;> rfl

theorem mapNext_keyHeld (f : State → State) (s : State) (b : Byte) (k : Bool → Result) :
    mapNext f (s.keyHeld b k) = s.keyHeld b fun held => mapNext f (k held) := by
  unfold State.keyHeld; split <;> rfl

theorem mapNext_eq_self {f : State → State} {r : Result} (h : ∀ t, r = .next t → f t = t) :
    mapNext f r = r := by
  cases r with
  | next t => exact congrArg _ (h t rfl)
  | fault | refused => rfl

/-! ### Non-interference, the overwritten field masked -/

theorem Overwrite.apply_skipIf (o : Overwrite) (s : State) (c : Bool) :
    o.apply ((o.apply s).skipIf c) = o.apply (s.skipIf c) := by
  cases c <;> cases o <;> rfl

theorem Overwrite.apply_loadRegs (o : Overwrite) (s : State) (first : Nat) (bs : List Byte) :
    o.apply ((o.apply s).loadRegs first bs) = o.apply (s.loadRegs first bs) := by
  have hcomm : (o.apply s).loadRegs first bs = o.apply (s.loadRegs first bs) := by
    induction bs generalizing s first with
    | nil => rfl
    | cons b bs ih =>
      rw [State.loadRegs, State.loadRegs, ← ih]
      cases o <;> rfl
  rw [hcomm]
  cases o <;> rfl

/-- With another value in the field an instruction answers the same but for that field. -/
theorem exec_overwrite (o : Overwrite) (s : State)
    (hkeys : (∀ x, i ≠ .skp x ∧ i ≠ .sknp x) ∨ ∀ ks, o ≠ .keypad ks) :
    mapNext o.apply (exec i (o.apply s)) = mapNext o.apply (exec i s) := by
  cases i with
  | cls | jp | jpV0 | ldByte | addByte | ldReg | orReg | andReg | xorReg | ldI | addI | ldF | rnd
  | ldVxDt | ldVxK | ldDtVx | ldStVx => cases o <;> rfl
  | seByte | sneByte | seReg | sneReg =>
    refine congrArg Host.Outcome.next (Eq.trans ?_ (o.apply_skipIf s _))
    cases o <;> rfl
  | skp | sknp =>
    simp only [exec, execSkp, execSknp, mapNext_keyHeld, mapNext_next, Overwrite.apply_skipIf]
    cases o with
    | keypad ks => simp at hkeys
    | opcode | drawRequest | soundTimer => rfl
  | addReg | subReg | shr | subnReg | shl =>
    simp only [exec, execAddReg, execSubReg, execShr, execSubnReg, execShl, mapNext_guardAlias]
    cases o <;> rfl
  | call =>
    simp only [exec, execCall, mapNext_pushReturn]
    cases o <;> rfl
  | ret =>
    simp only [exec, execRet, mapNext_popReturn]
    cases o <;> rfl
  | drw | ldB | ldMemVx =>
    simp only [exec, execDrw, execLdB, execLdMemVx, mapNext_checkBounds]
    cases o <;> rfl
  | ldVxMem =>
    simp only [exec, execLdVxMem, mapNext_checkBounds, mapNext_next, Overwrite.apply_loadRegs]
    cases o <;> rfl

/-- Settles O23: the answer has the given keypad already, so masking it changes nothing. -/
theorem onlyKeySkipsReadTheKeypad : Obligations.OnlyKeySkipsReadTheKeypad := by
  intro i s ks hi
  refine Eq.trans (mapNext_eq_self fun t ht => ?_).symm (exec_overwrite (.keypad ks) s (.inl hi))
  obtain rfl : t.keys = ks := exec_keys ht
  rfl

/-- Settles O24: for `opcode`, which no instruction writes, the mask changes nothing. -/
theorem noInstructionReadsOpcodeDrawRequestOrSoundTimer :
    Obligations.NoInstructionReadsOpcodeDrawRequestOrSoundTimer := by
  intro i s w d b
  refine ⟨?_, exec_overwrite (.drawRequest d) s (.inr nofun),
    exec_overwrite (.soundTimer b) s (.inr nofun)⟩
  refine Eq.trans (mapNext_eq_self fun t ht => ?_).symm (exec_overwrite (.opcode w) s (.inr nofun))
  obtain rfl : t.opcode = w := exec_opcode ht
  rfl

end Sys2Proof.Machine

/-! ## The state that construct gives -/

namespace Sys2Proof.Machine

variable {s : State}

/-- Memory that nothing has written is the font in its place and 0 elsewhere (10_state.md R33, R34). -/
theorem read_nil_font (p : Config.Params) {j : Nat} (h : j < 80) :
    Memory.read p [] (p.fontBase.val + j) = p.fontData[j] := by
  have hbase : p.fontBase.val < 0x200 - 80 + 1 := p.fontBase.isLt
  have hlow : p.fontBase.val + j < 0x200 := by omega
  simp [Memory.read, Memory.lookup, Memory.resetByte, hlow, h]

theorem read_nil_outside_font (p : Config.Params) {a : Nat}
    (h : a < p.fontBase.val ∨ p.fontBase.val + 80 ≤ a) : Memory.read p [] a = 0 := by
  simp only [Memory.read, Memory.lookup, Memory.resetByte, Option.getD_none]
  split_ifs with _ hle
  · have hpast : 80 ≤ a - p.fontBase.val := by omega
    exact List.getD_eq_default _ _ (p.fontData.length_toList.trans_le hpast)
  · rfl
  · rfl

/-- Reset and both forms of construct differ in the parameters and the draw count alone (log entry 11). -/
theorem eq_construct_with_draws
    (h : s = State.reset ∨ (∃ p, s = State.construct p) ∨ ∃ s0, hostTurn .construct s0 = ⟨s, .done⟩) :
    ∃ p n, s = { State.construct p with draws := n } := by
  obtain rfl | ⟨p, rfl⟩ | ⟨s0, h0⟩ := h
  · exact ⟨defaultParams, 0, rfl⟩
  · exact ⟨p, 0, rfl⟩
  · exact ⟨s0.params, s0.draws, (congrArg HostTurn.after h0).symm⟩

/-- Settles O1: field by field on the constructed state, memory by what an empty list of cells reads as. -/
theorem constructGivesTheResetValues : Obligations.ConstructGivesTheResetValues := by
  intro s hs
  obtain ⟨p, n, rfl⟩ := eq_construct_with_draws hs
  have hreg (r : RegIdx) : (State.construct p).getV r = 0 := Vector.getElem_replicate r.isLt
  have hstack (k : Fin 16) : (State.construct p).stack[k] = 0 := Vector.getElem_replicate k.isLt
  have hpixel (x : Fin 64) (y : Fin 32) : pixelAt (State.construct p).fb x y = false :=
    pixelAt_blankScreen x y
  have hkey (k : Fin 16) : (State.construct p).keys[k] = false := Vector.getElem_replicate k.isLt
  exact ⟨hreg, rfl, rfl, rfl, hstack, rfl, rfl, rfl, hpixel, rfl, rfl, rfl, hkey,
    fun _ h => read_nil_font p h, fun _ h => read_nil_outside_font p h⟩

end Sys2Proof.Machine

/-! ## The word the next step fetches after a store -/

namespace Sys2Proof.Machine

variable {s : State}

/-- A store over both bytes at pc is fetched as stored (20_memory.md R40, R50). -/
theorem State.fetchWord_storeBytes {a k : Nat} {bs : List Byte} (hpc : s.pc.toNat = a + k)
    (hk : k + 1 < bs.length) : (s.storeBytes a bs).fetchWord = wordOfBytes bs[k] bs[k + 1] := by
  have hhigh : (s.storeBytes a bs).byteAt (a + k) = bs[k] := by
    rw [State.byteAt_storeBytes, dif_pos (by omega)]
    simp only [Nat.add_sub_cancel_left]
  have hlow : (s.storeBytes a bs).byteAt (a + k + 1) = bs[k + 1] := by
    rw [State.byteAt_storeBytes, dif_pos (by omega)]
    simp only [Nat.add_assoc, Nat.add_sub_cancel_left]
  rw [State.fetchWord, State.storeBytes_pc, hpc, hhigh, hlow]

/-- A register dump that ends in memory answers the state with the registers stored (R108). -/
theorem exec_ldMemVx_next {x : RegIdx} (h : s.i.toNat + x.toNat ≤ 0xFFF) :
    exec (.ldMemVx x) s = .next (s.storeBytes s.i.toNat (s.dumpRegs (x.toNat + 1))) :=
  checkBounds_next.2 ⟨.inr h, rfl⟩

/-- Settles O26: bytes a and a + 1 of the dump stand at pc, and the tick writes neither memory nor pc. -/
theorem storedBytesAreFetched : Obligations.StoredBytesAreFetched := by
  intro s x a b hroom hab hbx hpc
  refine ⟨_, exec_ldMemVx_next hroom, ?_⟩
  have hlen : a.toNat + 1 < (s.dumpRegs (x.toNat + 1)).length := by
    rw [State.length_dumpRegs]; omega
  have hfetch := State.fetchWord_storeBytes hpc hlen
  rw [State.getElem_dumpRegs, State.getElem_dumpRegs, hab, BitVec.ofNat_toNat, BitVec.ofNat_toNat,
    BitVec.setWidth_eq, BitVec.setWidth_eq] at hfetch
  exact hfetch

/-! ### A word placed where the step fetches -/

/-- Everything that making the fetch succeed can do: the wait ends, and pc moves to the entry point only
where its two bytes are not in memory. -/
theorem State.readyToFetch_cases (s : State) :
    (s.pc.toNat + 1 ≤ 0xFFF ∧ s.readyToFetch = s.setWaiting false) ∨
    (0xFFF < s.pc.toNat + 1 ∧ s.readyToFetch = (s.setWaiting false).setPc 0x200) := by
  have hiff := (s.setWaiting false).fetchInBounds_iff
  by_cases hpc : s.pc.toNat + 1 ≤ 0xFFF
  · exact .inl ⟨hpc, if_pos (hiff.2 hpc)⟩
  · exact .inr ⟨Nat.lt_of_not_le hpc, if_neg (mt hiff.1 hpc)⟩

@[simp] theorem State.readyToFetch_waiting (s : State) : s.readyToFetch.waiting = false := by
  obtain ⟨-, h⟩ | ⟨-, h⟩ := s.readyToFetch_cases <;> simp [h]

@[simp] theorem State.readyToFetch_params (s : State) : s.readyToFetch.params = s.params := by
  obtain ⟨-, h⟩ | ⟨-, h⟩ := s.readyToFetch_cases <;> simp [h]

theorem State.readyToFetch_fetchInBounds (s : State) : s.readyToFetch.fetchInBounds = true := by
  obtain ⟨hb, h⟩ | ⟨-, h⟩ := s.readyToFetch_cases <;> rw [h, State.fetchInBounds_iff]
  · exact hb
  · exact show 0x200 + 1 ≤ 0xFFF by decide

theorem State.readyToFetch_touches (s : State) :
    Touches s s.readyToFetch fun p => p = .waiting ∨ (p = .pc ∧ 0xFFF < s.pc.toNat + 1) := by
  obtain ⟨-, h⟩ | ⟨hb, h⟩ := s.readyToFetch_cases <;> rw [h]
  · exact (s.setWaiting_touches false).mono fun _ => .inl
  · exact ((s.setWaiting_touches false).trans (State.setPc_touches _ _)).mono
      fun _ => .imp_right (⟨·, hb⟩)

@[simp] theorem State.placeWord_fetchWord (s : State) (w : Word) : (s.placeWord w).fetchWord = w :=
  (State.fetchWord_storeBytes (k := 0) rfl (by simp)).trans (wordOfBytes_high_low w)

/-- A step that fetches a legal word is the instruction on the fetched state, then the tick (R66 to R70). -/
theorem step_runs {i : Instr} (hw : s.waiting = false) (hb : s.fetchInBounds = true)
    (hd : decode s.params.strictLowNibble s.fetchWord = .ok i) :
    step s = mapNext State.tick (exec i (s.fetched s.fetchWord)) := by
  rw [step, stepCall_runs hw hb hd]
  cases exec i (s.fetched s.fetchWord) <;> rfl

/-- On the state with a legal word placed, the step is the word's instruction, then the tick. -/
theorem step_withFetchWord {n w : Nat} {i : Instr}
    (hd : decode s.params.strictLowNibble (BitVec.ofNat 16 w) = .ok i) :
    step (s.withFetchWord n w) =
      mapNext State.tick (exec i ((s.withFetchWord n w).fetched (BitVec.ofNat 16 w))) := by
  have hfetch : (s.withFetchWord n w).fetchWord = BitVec.ofNat 16 w := State.placeWord_fetchWord _ _
  have hparams : (s.withFetchWord n w).params = s.params := s.readyToFetch_params
  have hrun := step_runs (s := s.withFetchWord n w) (i := i) s.readyToFetch_waiting
    s.readyToFetch_fetchInBounds
  rw [hparams, hfetch] at hrun
  exact hrun hd

theorem State.withFetchWord_touches (s : State) (n w : Nat) :
    Touches s (s.withFetchWord n w) fun p =>
      (p = .waiting ∨ (p = .pc ∧ 0xFFF < s.pc.toNat + 1)) ∨
      ∃ a, p = .byte a ∧ s.readyToFetch.pc.toNat ≤ a ∧ a < s.readyToFetch.pc.toNat + 2 :=
  s.readyToFetch_touches.trans (State.storeBytes_touches _ _ _)

/-- Settles O25: the placed state can fetch and fetches the word; the frame is that of the two operations
that place it. -/
theorem placedWordIsTheOneRun : Obligations.PlacedWordIsTheOneRun := by
  intro s w i hd
  refine ⟨_, rfl, step_withFetchWord hd, fun p hp => (s.withFetchWord_touches 16 w).parts p ?_⟩
  rintro ((hwait | hpc) | ⟨a, rfl, hlo, hhi⟩)
  · exact hp (.inl hwait)
  · exact hp (.inr (.inr (.inr hpc)))
  · obtain rfl | rfl : a = s.readyToFetch.pc.toNat ∨ a = s.readyToFetch.pc.toNat + 1 := by omega
    · exact hp (.inr (.inl rfl))
    · exact hp (.inr (.inr (.inl rfl)))

end Sys2Proof.Machine

/-! ## Encoding: decode of encode -/

namespace Sys2Proof

/-- The decoder inverts the encoder, whatever `STRICT_LOW_NIBBLE` is: the fields of the encoded word are the
operands, and its fixed bits select the instruction at each dispatch level (R51 to R59). -/
theorem decode_encode (strict : Bool) (i : Instr) : decode strict (encode i) = .ok i := by
  cases i with
  | cls | ret => rfl
  | jp | call | ldI | jpV0 => simp [decode, encode]
  | seByte | sneByte | ldByte | addByte | rnd => simp [decode, encode]
  | drw => simp [decode, encode]
  | seReg | sneReg => simp [decode, encode, decodeLowNibbleZero]
  | ldReg | orReg | andReg | xorReg | addReg | subReg | shr | subnReg | shl =>
    simp [decode, encode, decodeClass8]
  | skp | sknp => simp [decode, encode, decodeClassE]
  | ldVxDt | ldVxK | ldDtVx | ldStVx | addI | ldF | ldB | ldMemVx | ldVxMem =>
    simp [decode, encode, decodeClassF]

/-- The decoder on bytes decodes the word that they lay out and keeps the bytes after it (R40, R51). -/
theorem decodeBytes_high_low {strict : Bool} {w : Word} {i : Instr} (h : decode strict w = .ok i)
    (rest : List Byte) : decodeBytes strict (highByte w :: lowByte w :: rest) = .ok (i, rest) := by
  rw [decodeBytes, wordOfBytes_high_low, h]

/-- Settles O6: `encodeBytes` lays out the word of `encode`, which decodes to the instruction. -/
theorem decodeOfEncodeIsTheInstruction : Obligations.DecodeOfEncodeIsTheInstruction :=
  fun strict i rest => ⟨decode_encode strict i, decodeBytes_high_low (decode_encode strict i) rest⟩

end Sys2Proof

/-! ## Encoding: the dispatch of a word on its class -/

namespace Sys2Proof

variable {w : Word} {strict : Bool} {c x y n : BitVec 4} {kk : Byte} {nnn : Addr12}

/-! ### A word of each form is known by its fields -/

theorem eq_cnnn_iff : w = c ++ nnn ↔ fieldClass w = c ∧ nnn = fieldNNN w := by
  constructor
  · rintro rfl; simp
  · rintro ⟨rfl, rfl⟩; exact word_eq_cnnn w

theorem eq_cxkk_iff : w = c ++ x ++ kk ↔ fieldClass w = c ∧ x = fieldX w ∧ kk = fieldKK w := by
  constructor
  · rintro rfl; simp
  · rintro ⟨rfl, rfl, rfl⟩; exact word_eq_cxkk w

theorem eq_cxyn_iff :
    w = c ++ x ++ y ++ n ↔ fieldClass w = c ∧ x = fieldX w ∧ y = fieldY w ∧ n = fieldN w := by
  constructor
  · rintro rfl; simp
  · rintro ⟨rfl, rfl, rfl, rfl⟩; exact word_eq_cxyn w

/-! ### Classes with one dispatch level and with two -/

/-- The classes whose words are told apart at a second dispatch level (R55 to R59). -/
def twoLevelClasses : List (BitVec 4) := [0x0, 0x5, 0x8, 0x9, 0xE, 0xF]

theorem decode_class0 (h : fieldClass w = 0x0) : decode strict w = decodeClass0 w := by
  simp [decode, h]

theorem decode_class5 (h : fieldClass w = 0x5) :
    decode strict w = decodeLowNibbleZero strict (fieldN w) (.seReg (fieldX w) (fieldY w)) := by
  simp [decode, h]

theorem decode_class8 (h : fieldClass w = 0x8) :
    decode strict w = decodeClass8 (fieldX w) (fieldY w) (fieldN w) := by
  simp [decode, h]

theorem decode_class9 (h : fieldClass w = 0x9) :
    decode strict w = decodeLowNibbleZero strict (fieldN w) (.sneReg (fieldX w) (fieldY w)) := by
  simp [decode, h]

theorem decode_classE (h : fieldClass w = 0xE) :
    decode strict w = decodeClassE (fieldX w) (fieldKK w) := by
  simp [decode, h]

theorem decode_classF (h : fieldClass w = 0xF) :
    decode strict w = decodeClassF (fieldX w) (fieldKK w) := by
  simp [decode, h]

theorem class_cases (w : Word) :
    fieldClass w ∉ twoLevelClasses ∨ fieldClass w = 0x0 ∨ fieldClass w = 0x5 ∨
    fieldClass w = 0x8 ∨ fieldClass w = 0x9 ∨ fieldClass w = 0xE ∨ fieldClass w = 0xF := by
  simp only [twoLevelClasses, List.mem_cons, List.not_mem_nil, or_false]
  exact (em _).symm

theorem mem_of_not_mem_twoLevelClasses (c : BitVec 4) (h : c ∉ twoLevelClasses) :
    c ∈ [0x1, 0x2, 0x3, 0x4, 0x6, 0x7, 0xA, 0xB, 0xC, 0xD] := by
  revert c; decide

theorem toNat_not_mem_of_not_mem_twoLevelClasses (c : BitVec 4) (h : c ∉ twoLevelClasses) :
    c.toNat ∉ [0x0, 0x5, 0x8, 0x9, 0xE, 0xF] := by
  revert c; decide

/-- In a class with one level every word is an instruction, whatever its other bits are (R54). -/
theorem exists_eq_encode_of_one_level (hc : fieldClass w ∉ twoLevelClasses) : ∃ i, w = encode i := by
  have h := mem_of_not_mem_twoLevelClasses _ hc
  simp only [List.mem_cons, List.not_mem_nil, or_false] at h
  rcases h with h | h | h | h | h | h | h | h | h | h
  · exact ⟨.jp _, eq_cnnn_iff.2 ⟨h, rfl⟩⟩
  · exact ⟨.call _, eq_cnnn_iff.2 ⟨h, rfl⟩⟩
  · exact ⟨.seByte _ _, eq_cxkk_iff.2 ⟨h, rfl, rfl⟩⟩
  · exact ⟨.sneByte _ _, eq_cxkk_iff.2 ⟨h, rfl, rfl⟩⟩
  · exact ⟨.ldByte _ _, eq_cxkk_iff.2 ⟨h, rfl, rfl⟩⟩
  · exact ⟨.addByte _ _, eq_cxkk_iff.2 ⟨h, rfl, rfl⟩⟩
  · exact ⟨.ldI _, eq_cnnn_iff.2 ⟨h, rfl⟩⟩
  · exact ⟨.jpV0 _, eq_cnnn_iff.2 ⟨h, rfl⟩⟩
  · exact ⟨.rnd _ _, eq_cxkk_iff.2 ⟨h, rfl, rfl⟩⟩
  · exact ⟨.drw _ _ _, eq_cxyn_iff.2 ⟨h, rfl, rfl, rfl⟩⟩

end Sys2Proof

/-! ## Encoding: encode of decode -/

namespace Sys2Proof

variable {w : Word} {i j : Instr} {x y n : BitVec 4} {kk : Byte}

theorem eq_encode_of_decodeClass0 (h : decodeClass0 w = .ok i) : w = encode i := by
  unfold decodeClass0 at h
  split_ifs at h with hcls hret <;> obtain rfl := Except.ok.inj h
  · exact hcls
  · exact hret

theorem decodeLowNibbleZero_true_ok (h : decodeLowNibbleZero true n j = .ok i) : n = 0 ∧ j = i := by
  unfold decodeLowNibbleZero at h
  split_ifs at h with hn hstrict
  · exact ⟨hn, Except.ok.inj h⟩
  · exact absurd rfl hstrict

theorem encode_of_decodeClass8 (h : decodeClass8 x y n = .ok i) :
    encode i = 0x8#4 ++ x ++ y ++ n := by
  unfold decodeClass8 at h
  split_ifs at h <;> obtain rfl := Except.ok.inj h <;> subst n <;> rfl

theorem encode_of_decodeClassE (h : decodeClassE x kk = .ok i) : encode i = 0xE#4 ++ x ++ kk := by
  unfold decodeClassE at h
  split_ifs at h <;> obtain rfl := Except.ok.inj h <;> subst kk <;> rfl

theorem encode_of_decodeClassF (h : decodeClassF x kk = .ok i) : encode i = 0xF#4 ++ x ++ kk := by
  unfold decodeClassF at h
  split_ifs at h <;> obtain rfl := Except.ok.inj h <;> subst kk <;> rfl

/-- Under the strict parameter decode and encode are inverse to each other. -/
theorem decode_true_eq_ok_iff : decode true w = .ok i ↔ w = encode i := by
  refine ⟨fun h => ?_, fun h => h ▸ decode_encode true i⟩
  rcases class_cases w with hc | hc | hc | hc | hc | hc | hc
  · obtain ⟨j, rfl⟩ := exists_eq_encode_of_one_level hc
    exact congrArg encode (Except.ok.inj ((decode_encode true j).symm.trans h))
  · exact eq_encode_of_decodeClass0 (decode_class0 hc ▸ h)
  · obtain ⟨hn, rfl⟩ := decodeLowNibbleZero_true_ok (decode_class5 hc ▸ h)
    exact eq_cxyn_iff.2 ⟨hc, rfl, rfl, hn.symm⟩
  · rw [encode_of_decodeClass8 (decode_class8 hc ▸ h)]
    exact eq_cxyn_iff.2 ⟨hc, rfl, rfl, rfl⟩
  · obtain ⟨hn, rfl⟩ := decodeLowNibbleZero_true_ok (decode_class9 hc ▸ h)
    exact eq_cxyn_iff.2 ⟨hc, rfl, rfl, hn.symm⟩
  · rw [encode_of_decodeClassE (decode_classE hc ▸ h)]
    exact eq_cxkk_iff.2 ⟨hc, rfl, rfl⟩
  · rw [encode_of_decodeClassF (decode_classF hc ▸ h)]
    exact eq_cxkk_iff.2 ⟨hc, rfl, rfl⟩

/-- Settles O7: each dispatch level answers an instruction whose fixed bits are the ones it tested. -/
theorem encodeOfDecodeIsTheWord : Obligations.EncodeOfDecodeIsTheWord :=
  fun _ _ h => (decode_true_eq_ok_iff.1 h).symm

end Sys2Proof

/-! ## Encoding: the rows of the opcode table as masks -/

namespace Sys2Proof

variable {w : Word} {c x y n : BitVec 4} {kk : Byte} {nnn : Addr12}

/-! ### What a mask keeps of a word -/

theorem and_mask_class (w : Word) : w &&& 0xF000 = fieldClass w ++ 0#12 := by
  apply BitVec.eq_of_getLsbD_eq; intro k hk
  rw [getLsbD_cnnn]
  interval_cases k <;> simp [fieldClass]

theorem and_mask_class_n (w : Word) : w &&& 0xF00F = fieldClass w ++ 0#4 ++ 0#4 ++ fieldN w := by
  apply BitVec.eq_of_getLsbD_eq; intro k hk
  rw [getLsbD_cxyn]
  interval_cases k <;> simp [fieldClass, fieldN]

theorem and_mask_class_kk (w : Word) : w &&& 0xF0FF = fieldClass w ++ 0#4 ++ fieldKK w := by
  apply BitVec.eq_of_getLsbD_eq; intro k hk
  rw [getLsbD_cxkk]
  interval_cases k <;> simp [fieldClass, fieldKK]

theorem and_mask_class_eq_iff : w &&& 0xF000 = c ++ 0#12 ↔ fieldClass w = c := by
  rw [and_mask_class, eq_cnnn_iff]; simp

theorem and_mask_class_n_eq_iff :
    w &&& 0xF00F = c ++ 0#4 ++ 0#4 ++ n ↔ fieldClass w = c ∧ n = fieldN w := by
  rw [and_mask_class_n, eq_cxyn_iff]; simp

theorem and_mask_class_kk_eq_iff :
    w &&& 0xF0FF = c ++ 0#4 ++ kk ↔ fieldClass w = c ∧ kk = fieldKK w := by
  rw [and_mask_class_kk, eq_cxkk_iff]; simp

/-! ### The fixed bits of a row and its operands -/

theorem eq_cnnn_iff_fixed_c :
    w = c ++ nnn ↔ w &&& 0xF000 = c ++ 0#12 ∧ nnn = fieldNNN w := by
  rw [eq_cnnn_iff, and_mask_class_eq_iff]

theorem eq_cxkk_iff_fixed_c :
    w = c ++ x ++ kk ↔ w &&& 0xF000 = c ++ 0#12 ∧ x = fieldX w ∧ kk = fieldKK w := by
  rw [eq_cxkk_iff, and_mask_class_eq_iff]

theorem eq_cxyn_iff_fixed_c : w = c ++ x ++ y ++ n ↔
    w &&& 0xF000 = c ++ 0#12 ∧ x = fieldX w ∧ y = fieldY w ∧ n = fieldN w := by
  rw [eq_cxyn_iff, and_mask_class_eq_iff]

theorem eq_cxyn_iff_fixed_cn : w = c ++ x ++ y ++ n ↔
    w &&& 0xF00F = c ++ 0#4 ++ 0#4 ++ n ∧ x = fieldX w ∧ y = fieldY w := by
  rw [eq_cxyn_iff, and_mask_class_n_eq_iff]; tauto

theorem eq_cxkk_iff_fixed_ckk :
    w = c ++ x ++ kk ↔ w &&& 0xF0FF = c ++ 0#4 ++ kk ∧ x = fieldX w := by
  rw [eq_cxkk_iff, and_mask_class_kk_eq_iff]; tauto

/-- Settles O9: the word is the instruction's encoding, and of the 34 rows only the instruction's own can be
its, which the word meets when its fixed bits and its operands are that encoding's. -/
theorem decoderFollowsTheOpcodeTable : Obligations.DecoderFollowsTheOpcodeTable := by
  intro w x y n kk nnn i (hx : x = fieldX w) (hy : y = fieldY w) (hn : n = fieldN w)
    (hkk : kk = fieldKK w) (hnnn : nnn = fieldNNN w)
  subst hx hy hn hkk hnnn
  have hall : w &&& 0xFFFF = w := BitVec.and_allOnes
  rw [decode_true_eq_ok_iff, hall]
  cases i with
  | cls | ret => simp [encode]
  | jp | call | ldI | jpV0 => simp [encode, eq_cnnn_iff_fixed_c]
  | seByte | sneByte | ldByte | addByte | rnd => simp [encode, eq_cxkk_iff_fixed_c]
  | drw => simp [encode, eq_cxyn_iff_fixed_c]
  | seReg | sneReg | ldReg | orReg | andReg | xorReg | addReg | subReg | shr | subnReg | shl =>
    simp [encode, eq_cxyn_iff_fixed_cn]
  | skp | sknp | ldVxDt | ldVxK | ldDtVx | ldStVx | addI | ldF | ldB | ldMemVx | ldVxMem =>
    simp [encode, eq_cxkk_iff_fixed_ckk]

end Sys2Proof

/-! ## Encoding: the words that are no instruction -/

namespace Sys2Proof

variable {w : Word} {i : Instr} {x y n : BitVec 4} {kk : Byte}

/-! ### Which fields each second level rejects, as numbers -/

theorem decodeClass0_error_iff :
    (∃ e, decodeClass0 w = .error e) ↔ w.toNat ≠ 0x00E0 ∧ w.toNat ≠ 0x00EE := by
  unfold decodeClass0
  split_ifs <;> simp_all [← BitVec.toNat_inj]

theorem decodeLowNibbleZero_true_error_iff :
    (∃ e, decodeLowNibbleZero true n i = .error e) ↔ n.toNat ≠ 0 := by
  unfold decodeLowNibbleZero
  split_ifs <;> simp_all [← BitVec.toNat_inj]

theorem decodeClass8_error_iff :
    (∃ e, decodeClass8 x y n = .error e) ↔ n.toNat ∈ [0x8, 0x9, 0xA, 0xB, 0xC, 0xD, 0xF] := by
  unfold decodeClass8
  split_ifs <;> simp_all [← BitVec.toNat_inj]
  omega

theorem decodeClassE_error_iff :
    (∃ e, decodeClassE x kk = .error e) ↔ kk.toNat ∉ [0x9E, 0xA1] := by
  unfold decodeClassE
  split_ifs <;> simp_all [← BitVec.toNat_inj]

theorem decodeClassF_error_iff : (∃ e, decodeClassF x kk = .error e) ↔
    kk.toNat ∉ [0x07, 0x0A, 0x15, 0x18, 0x1E, 0x29, 0x33, 0x55, 0x65] := by
  unfold decodeClassF
  split_ifs <;> simp_all [← BitVec.toNat_inj]

/-- Settles O8: the word's class leaves one clause of R60's list, which is what that class's second level
rejects; a word of a class with one level is an instruction and meets no clause. -/
theorem decoderRejectsExactlyTheListedWords : Obligations.DecoderRejectsExactlyTheListedWords := by
  intro w
  have hclass0 : w.toNat ≤ 0x0FFF ↔ w.toNat / 0x1000 = 0 := by omega
  rw [hclass0, ← fieldClass_toNat, ← fieldN_toNat, ← fieldKK_toNat]
  rcases class_cases w with hc | hc | hc | hc | hc | hc | hc
  · obtain ⟨i, hi⟩ := exists_eq_encode_of_one_level hc
    have hd : decode true w = .ok i := decode_true_eq_ok_iff.2 hi
    have hnot := toNat_not_mem_of_not_mem_twoLevelClasses _ hc
    simp only [List.mem_cons, List.not_mem_nil, or_false, not_or] at hnot
    simp [hd, hnot]
  · rw [decode_class0 hc, decodeClass0_error_iff]; simp [hc]
  · rw [decode_class5 hc, decodeLowNibbleZero_true_error_iff]; simp [hc]
  · rw [decode_class8 hc, decodeClass8_error_iff]; simp [hc]
  · rw [decode_class9 hc, decodeLowNibbleZero_true_error_iff]; simp [hc]
  · rw [decode_classE hc, decodeClassE_error_iff]; simp [hc]
  · rw [decode_classF hc, decodeClassF_error_iff]; simp [hc]

/-- Settles O5: each word is closed, so the decoder runs on it. -/
theorem wordsWrittenFromTheSpecDecode : Obligations.WordsWrittenFromTheSpecDecode := by
  unfold Obligations.WordsWrittenFromTheSpecDecode
  decide

/-- A low nibble that is ignored, or must be zero, as the parameter says (R59). -/
theorem decodeLowNibbleZero_clauses (n : BitVec 4) (i : Instr) :
    decodeLowNibbleZero false n i = .ok i ∧
    (n.toNat = 0 → decodeLowNibbleZero true n i = .ok i) ∧
    (n.toNat ≠ 0 → ∃ e, decodeLowNibbleZero true n i = .error e) :=
  ⟨ite_self _, fun h => if_pos (BitVec.eq_of_toNat_eq h), decodeLowNibbleZero_true_error_iff.2⟩

/-- Settles O10: classes 5 and 9 go through the same second level. -/
theorem lowNibbleOfClasses5And9 : Obligations.LowNibbleOfClasses5And9 := by
  rintro w x y rfl rfl
  rw [← fieldClass_toNat, ← fieldN_toNat]
  constructor <;> intro hclass
  · have hc : fieldClass w = 0x5 := BitVec.eq_of_toNat_eq hclass
    rw [decode_class5 hc, decode_class5 hc]
    exact decodeLowNibbleZero_clauses _ _
  · have hc : fieldClass w = 0x9 := BitVec.eq_of_toNat_eq hclass
    rw [decode_class9 hc, decode_class9 hc]
    exact decodeLowNibbleZero_clauses _ _

end Sys2Proof

/-! ## The step cycle: each return of a step, and what an error leaves -/

namespace Sys2Proof.Machine

variable {s : State} {i : Instr} {f : Fault}

/-! ### The errors of every instruction -/

/-- The errors an instruction raises in a state, each with its condition (60_exceptions.md R116). -/
def raises (s : State) : Instr → Fault → Prop
  | .ret => fun f => s.sp.val = 0 ∧ f = .boundsError .stackUnderflow
  | .call _ => fun f => s.sp.val = 16 ∧ f = .boundsError .stackOverflow
  | .skp x | .sknp x => fun f => 15 < (s.getV x).toNat ∧ f = .boundsError .keypadIndex
  | .drw _ _ n => fun f =>
    n.toNat ≠ 0 ∧ 0xFFF < s.i.toNat + n.toNat - 1 ∧ f = .boundsError .spriteSource
  | .ldB _ => fun f => 0xFFF < s.i.toNat + 2 ∧ f = .boundsError .bcdTarget
  | .ldMemVx x => fun f => 0xFFF < s.i.toNat + x.toNat ∧ f = .boundsError .dumpTarget
  | .ldVxMem x => fun f => 0xFFF < s.i.toNat + x.toNat ∧ f = .boundsError .loadSource
  | _ => fun _ => False

/-- A transfer of at least one byte has only the bound on its last byte. -/
theorem checkBounds_succ_fault {a n : Nat} {cause : BoundsCause} {t : State} :
    checkBounds a (n + 1) cause (.next t) = .fault f ↔ 0xFFF < a + n ∧ f = .boundsError cause :=
  checkBounds_fault.trans (and_iff_right n.succ_ne_zero)

theorem exec_fault_iff : exec i s = .fault f ↔ raises s i f := by
  cases i with
  | ret => exact State.popReturn_fault (g := fun target t => t.setPc target)
  | call nnn => exact State.pushReturn_fault (g := fun t => t.setPc (addrOperand nnn))
  | skp => exact State.keyHeld_fault (g := s.skipIf)
  | sknp => exact State.keyHeld_fault (g := fun held => s.skipIf !held)
  | drw => exact checkBounds_fault
  | ldB | ldMemVx | ldVxMem => exact checkBounds_succ_fault
  | addReg | subReg | shr | subnReg | shl => exact iff_of_false State.guardAlias_fault id
  | _ => exact iff_of_false nofun id

/-- The fetch error is the step's own: no instruction raises it (40_step_cycle.md R66). -/
theorem exec_ne_fetch_fault (i : Instr) (s : State) : exec i s ≠ .fault (.boundsError .fetch) := by
  rw [ne_eq, exec_fault_iff]
  cases i <;> simp [raises]

/-! ### The frame of the fetch -/

theorem SameAt.refl (s : State) (p : Part) : SameAt s s p := by
  cases p <;> rfl

theorem State.setOpcode_touches (s : State) (w : Word) : Touches s (s.setOpcode w) (· = .opcode) where
  parts p hp := by cases p with | opcode => exact absurd rfl hp | _ => rfl
  cells _ := rfl

theorem State.fetched_touches (s : State) (w : Word) :
    Touches s (s.fetched w) fun p => p = .opcode ∨ p = .pc :=
  (s.setOpcode_touches w).trans (State.setPc_touches _ _)

/-- Settles O14: the fetch error leaves the state it was given, and every other error leaves the fetched
state, because no instruction raises the fetch error. -/
theorem failingStepChangesOnlyOpcodeAndPc : Obligations.FailingStepChangesOnlyOpcodeAndPc := by
  intro s s' f h
  obtain ⟨-, ⟨-, rfl, rfl⟩ | ⟨-, rfl, hraised⟩⟩ := stepCall_err h
  · exact ⟨fun p _ => .refl _ p, fun _ => rfl, fun hne => absurd rfl hne⟩
  · refine ⟨(s.fetched_touches _).parts, ?_, fun _ => ⟨rfl, rfl⟩⟩
    rintro rfl
    obtain ⟨hdecode, -⟩ | ⟨i, -, he⟩ := hraised
    · exact nomatch hdecode
    · exact absurd he (exec_ne_fetch_fault i _)

/-! ### The returns of a step -/

theorem State.fetchInBounds_eq_false (h : 0xFFF < s.pc.toNat + 1) : s.fetchInBounds = false :=
  Bool.eq_false_iff.2 fun hb => Nat.not_le_of_lt h (s.fetchInBounds_iff.1 hb)

/-- An instruction that answers a next state completes the step with the tick and its beep (R68 to R70). -/
theorem stepCall_completes {t : State} (hw : s.waiting = false) (hb : s.fetchInBounds = true)
    (hd : decode s.params.strictLowNibble s.fetchWord = .ok i)
    (he : exec i (s.fetched s.fetchWord) = .next t) : stepCall s = .ok t.beepNow t.tick := by
  rw [stepCall_runs hw hb hd, he, finishStep]

/-- An instruction that raises an error aborts the step in the state after the fetch (R71). -/
theorem stepCall_aborts (hw : s.waiting = false) (hb : s.fetchInBounds = true)
    (hd : decode s.params.strictLowNibble s.fetchWord = .ok i)
    (he : exec i (s.fetched s.fetchWord) = .fault f) :
    stepCall s = .err f (s.errorEntry s.fetchWord) := by
  rw [stepCall_runs hw hb hd, he, finishStep]

/-- Settles O12: one lemma per return of `stepCall`, each passed on to `step` and to the host. -/
theorem stepFollowsItsPseudocode : Obligations.StepFollowsItsPseudocode := by
  refine fun s => ⟨fun hw => ?waits, fun hw hpc => ?fetchFails, ?fetches⟩
  case waits =>
    have h := stepCall_waiting hw
    exact ⟨h, (hostTurn_step_ok h).symm⟩
  case fetchFails =>
    have h := stepCall_fetchFault hw (State.fetchInBounds_eq_false hpc)
    exact ⟨h, (hostTurn_step_err h).symm⟩
  case fetches =>
    rintro hw hpc _ _ rfl rfl
    have hb := s.fetchInBounds_iff.2 hpc
    refine ⟨fun e hd => ?illegal, fun i t hd he => ?completes, fun i e hd he => ?aborts⟩
    case illegal =>
      have h := stepCall_illegal hw hb hd
      exact ⟨h, (hostTurn_step_err h).symm⟩
    case completes =>
      have h := stepCall_completes hw hb hd he
      exact ⟨h, (hostTurn_step_ok h).symm⟩
    case aborts =>
      have h := stepCall_aborts hw hb hd he
      exact ⟨h, (hostTurn_step_err h).symm⟩

/-- The decoder on bytes answers what the word of the first two decodes to, and the bytes after them
(R40, R51). -/
theorem decodeBytes_cons_cons_eq_ok_iff {strict : Bool} {hi lo : Byte} {rest : List Byte} :
    decodeBytes strict (hi :: lo :: rest) = .ok (i, rest) ↔
      decode strict (wordOfBytes hi lo) = .ok i := by
  rw [decodeBytes]
  cases decode strict (wordOfBytes hi lo) <;> simp

/-- Settles O11: the two bytes at pc are the word fetched. -/
theorem stepRunsTheDecodedInstruction : Obligations.StepRunsTheDecodedInstruction := by
  intro s i hw hpc hd
  exact step_runs hw (s.fetchInBounds_iff.2 hpc) (decodeBytes_cons_cons_eq_ok_iff.1 hd)

end Sys2Proof.Machine

/-! ## Control transfer -/

namespace Sys2Proof.Machine

variable {s : State}

/-! ### What a transfer that succeeds answers -/

theorem exec_jp (nnn : Addr12) (s : State) :
    exec (.jp nnn) s = .next (s.setPc (addrOperand nnn)) := rfl

theorem exec_jpV0 (nnn : Addr12) (s : State) :
    exec (.jpV0 nnn) s = .next (s.setPc (addrOperand nnn + wordOfByte (s.getV 0))) := rfl

theorem exec_ret_of_sp {k : Fin 16} (hsp : s.sp.val = k.val + 1) :
    exec .ret s = .next ((s.setSp k.castSucc).setPc s.stack[k]) := by
  have hpos : 0 < s.sp.val := by omega
  rw [exec, execRet, State.popReturn_next]
  exact ⟨hpos, by simp only [hsp]; rfl⟩

theorem exec_call_of_sp {k : Fin 16} (nnn : Addr12) (hsp : s.sp.val = k.val) :
    exec (.call nnn) s =
      .next (((s.setStack k s.pc).setSp k.succ).setPc (addrOperand nnn)) := by
  have hroom : s.sp.val < 16 := by omega
  rw [exec, execCall, State.pushReturn_next]
  exact ⟨hroom, by simp only [hsp]; rfl⟩

/-- A step that does not wait raises the fetch error from a pc without two bytes in memory (R66). -/
theorem step_fetchFault (hw : s.waiting = false) (hpc : 0xFFF < s.pc.toNat + 1) :
    step s = .fault (.boundsError .fetch) :=
  (hostTurn_step_err (stepCall_fetchFault hw (State.fetchInBounds_eq_false hpc))).2

/-! ### The obligations -/

/-- Settles O30: the popped entry stays in the stack, so only sp and pc are written. -/
theorem retPopsTheReturnAddress : Obligations.RetPopsTheReturnAddress := by
  refine fun s => ⟨fun hsp => exec_fault_iff.2 ⟨hsp, rfl⟩, fun k hsp => ?_⟩
  have h := exec_ret_of_sp hsp
  exact ⟨_, h, rfl, rfl, (exec_touches h).parts⟩

/-- Settles O31: neither JP nor the tick writes `waiting`, so the next step fetches from nnn. -/
theorem jpSetsPc : Obligations.JpSetsPc := by
  intro nnn s
  have h := exec_jp nnn s
  refine ⟨_, h, addrOperand_toNat nnn, (exec_touches h).parts, ?_⟩
  rintro rfl hw
  have hlast : 0xFFF < (addrOperand 0xFFF).toNat + 1 := by decide
  exact step_fetchFault hw hlast

/-- Settles O32: the entry written is the one that sp names before the call. -/
theorem callPushesTheAdvancedPc : Obligations.CallPushesTheAdvancedPc := by
  refine fun nnn s => ⟨fun hsp => exec_fault_iff.2 ⟨hsp, rfl⟩, fun k hsp => ?_⟩
  have h := exec_call_of_sp nnn hsp
  have hframe := (((s.setStack_touches k s.pc).trans (State.setSp_touches _ k.succ)).trans
    (State.setPc_touches _ (addrOperand nnn))).mono fun _ => or_assoc.1
  exact ⟨_, h, Vector.getElem_set_self k.isLt, rfl, addrOperand_toNat nnn, hframe.parts⟩

/-- Settles O33: the target is the unreduced sum, and neither JP V0 nor the tick writes `waiting`. -/
theorem jpV0AddsV0WithoutWrapping : Obligations.JpV0AddsV0WithoutWrapping := by
  intro nnn s
  have h := exec_jpV0 nnn s
  exact ⟨_, h, addrOperand_add_wordOfByte_toNat nnn _, (exec_touches h).parts,
    fun hpc hw => step_fetchFault hw hpc⟩

end Sys2Proof.Machine

/-! ## Skips -/

namespace Sys2Proof.Machine

variable {s : State} {i : Instr}

/-! ### The shared operations of the skips -/

theorem State.skipIf_pc (s : State) (c : Bool) :
    (s.skipIf c).pc = if c = true then s.pc + 2 else s.pc := by
  rw [State.skipIf_eq, State.setPc_pc]

theorem State.skipIf_not_pc (s : State) (c : Bool) :
    (s.skipIf !c).pc = if c = true then s.pc else s.pc + 2 := by
  cases c <;> rfl

theorem State.skipIf_beq_pc (s : State) (a b : Byte) :
    (s.skipIf (a == b)).pc = if a = b then s.pc + 2 else s.pc := by
  simp only [State.skipIf_pc, beq_iff_eq]

theorem State.skipIf_bne_pc (s : State) (a b : Byte) :
    (s.skipIf (a != b)).pc = if a = b then s.pc else s.pc + 2 := by
  simp only [bne, State.skipIf_not_pc, beq_iff_eq]

theorem State.keyHeld_of_toNat {b : Byte} {k : Fin 16} (hb : b.toNat = k.val)
    (g : Bool → Result) : s.keyHeld b g = g s.keys[k] := by
  have hlt : b.toNat < 16 := by omega
  rw [State.keyHeld, dif_pos hlt]
  simp only [hb]
  rfl

/-! ### What a skip answers -/

/-- A skip answers the state with pc moved as its condition says, and moves nothing else (R78). -/
theorem exec_skip {c : Bool} {w : Word} (h : exec i s = .next (s.skipIf c))
    (hpc : (s.skipIf c).pc = w) :
    ∃ t, exec i s = .next t ∧ t.pc = w ∧ ChangesOnly s t fun p => p = .pc :=
  ⟨_, h, hpc, (s.skipIf_touches c).parts⟩

theorem exec_skp_of_key {x : RegIdx} {k : Fin 16} (hk : (s.getV x).toNat = k.val) :
    exec (.skp x) s = .next (s.skipIf s.keys[k]) := by
  rw [exec, execSkp, State.keyHeld_of_toNat hk]

theorem exec_sknp_of_key {x : RegIdx} {k : Fin 16} (hk : (s.getV x).toNat = k.val) :
    exec (.sknp x) s = .next (s.skipIf !s.keys[k]) := by
  rw [exec, execSknp, State.keyHeld_of_toNat hk]

/-! ### The obligations -/

/-- Settles O34: the conditions are the two tests of the register against the byte. -/
theorem byteSkipsTestTheRegister : Obligations.ByteSkipsTestTheRegister := fun _ _ s =>
  ⟨exec_skip rfl (s.skipIf_beq_pc _ _), exec_skip rfl (s.skipIf_bne_pc _ _)⟩

/-- Settles O35: the conditions are the two tests of one register against the other. -/
theorem registerSkipsCompareRegisters : Obligations.RegisterSkipsCompareRegisters := fun _ _ s =>
  ⟨exec_skip rfl (s.skipIf_beq_pc _ _), exec_skip rfl (s.skipIf_bne_pc _ _)⟩

/-- Settles O36: a number above 15 is the keypad's error, and any other names the key tested. -/
theorem keySkipsTestTheKeypad : Obligations.KeySkipsTestTheKeypad := by
  refine fun x s => ⟨fun hx => ?_, fun k hk => ⟨?_, ?_⟩⟩
  · exact ⟨exec_fault_iff.2 ⟨hx, rfl⟩, exec_fault_iff.2 ⟨hx, rfl⟩⟩
  · exact exec_skip (exec_skp_of_key hk) (s.skipIf_pc _)
  · exact exec_skip (exec_sknp_of_key hk) (s.skipIf_not_pc _)

end Sys2Proof.Machine

/-! ## Register loads, the ALU, and what the model refuses -/

namespace Sys2Proof.Machine

variable {s : State} {i : Instr} {r : Refusal} {x y : RegIdx}

/-! ### Refusals (43_alu.md R86) -/

/-- Whether VF is among the register operands for which R86 lets a model give the instruction no meaning. -/
def usesFlagOperand : Instr → Bool
  | .addReg x y | .subReg x y | .subnReg x y => x == flagReg || y == flagReg
  | .shr x _ | .shl x _ => x == flagReg
  | _ => false

theorem usesFlagOperand_iff : usesFlagOperand i = true ↔
    (∃ x y, (i = .addReg x y ∨ i = .subReg x y ∨ i = .subnReg x y) ∧ (x = 0xF ∨ y = 0xF)) ∨
    ∃ x y, (i = .shr x y ∨ i = .shl x y) ∧ x = 0xF := by
  cases i with
  | addReg | subReg | subnReg | shr | shl => simp [usesFlagOperand, flagReg]
  | _ => simp [usesFlagOperand]

theorem exec_refused_iff : exec i s = .refused r ↔
    s.params.flagAlias = .refuse ∧ usesFlagOperand i = true ∧ r = .flagAlias := by
  cases i with
  | addReg | subReg | subnReg | shr | shl => exact State.guardAlias_refused
  | ret => exact iff_of_false (State.popReturn_refused (g := fun target t => t.setPc target)) nofun
  | call nnn =>
    exact iff_of_false (State.pushReturn_refused (g := fun t => t.setPc (addrOperand nnn))) nofun
  | skp => exact iff_of_false (State.keyHeld_refused (g := s.skipIf)) nofun
  | sknp => exact iff_of_false (State.keyHeld_refused (g := fun held => s.skipIf !held)) nofun
  | drw | ldB | ldMemVx | ldVxMem => exact iff_of_false checkBounds_refused nofun
  | _ => exact iff_of_false nofun nofun

/-- Settles O16: only the guard of the five flag instructions refuses. -/
theorem refusalsAreOnlyFlagAlias : Obligations.RefusalsAreOnlyFlagAlias := by
  intro i s r
  rw [exec_refused_iff, usesFlagOperand_iff, ← and_assoc, and_comm]

/-- An instruction that is refused ends the step with the refusal (log entry 43). -/
theorem stepCall_refuses (hw : s.waiting = false) (hb : s.fetchInBounds = true)
    (hd : decode s.params.strictLowNibble s.fetchWord = .ok i)
    (he : exec i (s.fetched s.fetchWord) = .refused r) : stepCall s = .refused r := by
  rw [stepCall_runs hw hb hd, he, finishStep]

/-- Settles O57: the refusal is a return of `stepCall`, which the host passes on with its own state. -/
theorem refusedStepIsReportedAndKeepsTheState : Obligations.RefusedStepIsReportedAndKeepsTheState := by
  intro s i r hw hpc hd he
  have h : stepCall s = .refused r := stepCall_refuses hw (s.fetchInBounds_iff.2 hpc) hd he
  exact (hostTurn_step_refused h).symm

/-! ### Instructions that write their destination and no flag -/

theorem exec_writesReg {b : Byte} (h : exec i s = .next (s.setV x b)) :
    ∃ t, exec i s = .next t ∧ t.getV x = b ∧ ChangesOnly s t fun p => p = .reg x :=
  ⟨_, h, s.getV_setV_self x b, (s.setV_touches x b).parts⟩

theorem exec_writesBits {b : Byte} {bit : Nat → Bool} (h : exec i s = .next (s.setV x b))
    (hbits : ∀ k, b.getLsbD k = bit k) :
    ∃ t, exec i s = .next t ∧ (ChangesOnly s t fun p => p = .reg x) ∧
      ∀ k, k < 8 → (t.getV x).getLsbD k = bit k := by
  obtain ⟨t, ht, hx, hframe⟩ := exec_writesReg h
  exact ⟨t, ht, hframe, fun k _ => by rw [hx, hbits]⟩

/-- Settles O37: the value written is the byte, or the register y. -/
theorem loadsWriteTheDestination : Obligations.LoadsWriteTheDestination := fun _ _ _ _ =>
  ⟨exec_writesReg rfl, exec_writesReg rfl⟩

/-- Settles O38: the value written is the sum of two bytes. -/
theorem addByteWritesNoFlag : Obligations.AddByteWritesNoFlag := by
  intro x kk s
  obtain ⟨t, ht, hx, hframe⟩ := exec_writesReg (i := .addByte x kk) (s := s) rfl
  exact ⟨t, ht, by rw [hx, BitVec.toNat_add], hframe⟩

/-- Settles O39: the value written is bit by bit the operation on the two registers. -/
theorem logicIsBitwiseAndWritesNoFlag : Obligations.LogicIsBitwiseAndWritesNoFlag := fun _ _ _ =>
  ⟨exec_writesBits rfl fun _ => BitVec.getLsbD_or, exec_writesBits rfl fun _ => BitVec.getLsbD_and,
    exec_writesBits rfl fun _ => BitVec.getLsbD_xor⟩

/-! ### The flag as a number (R15) -/

theorem flagByte_toNat (c : Bool) : (flagByte c).toNat = c.toNat := by
  cases c <;> rfl

theorem flagByte_decide_toNat (p : Prop) [Decidable p] :
    (flagByte (decide p)).toNat = if p then 1 else 0 := by
  by_cases hp : p <;> simp [flagByte, hp]

theorem flagByte_carryOut_toNat (a b : Byte) :
    (flagByte (carryOut a b)).toNat = if a.toNat + b.toNat > 255 then 1 else 0 :=
  flagByte_decide_toNat _

theorem flagByte_noBorrow_toNat (a b : Byte) :
    (flagByte (noBorrow a b)).toNat = if a.toNat ≥ b.toNat then 1 else 0 :=
  flagByte_decide_toNat _

theorem flagByte_shiftedOutRight_toNat (a : Byte) :
    (flagByte (shiftedOutRight a)).toNat = a.toNat % 2 := by
  rw [flagByte_toNat, shiftedOutRight, ← BitVec.testBit_toNat, Nat.toNat_testBit]
  simp

theorem flagByte_shiftedOutLeft_toNat (a : Byte) :
    (flagByte (shiftedOutLeft a)).toNat = a.toNat / 128 := by
  rw [flagByte_toNat, shiftedOutLeft, ← BitVec.testBit_toNat, Nat.toNat_testBit]
  omega

/-! ### The result as a number -/

theorem byte_sub_toNat (a b : Byte) : ((a - b).toNat : Int) = (a.toNat - b.toNat : Int) % 256 := by
  rw [BitVec.toNat_sub]
  omega

theorem byte_shiftLeft_one_toNat (a : Byte) : (a <<< 1).toNat = a.toNat * 2 % 256 := by
  rw [BitVec.toNat_shiftLeft, Nat.shiftLeft_eq]

theorem byte_shiftRight_one_toNat (a : Byte) : (a >>> 1).toNat = a.toNat / 2 := by
  rw [BitVec.toNat_ushiftRight, Nat.shiftRight_eq_div_pow]

/-! ### Flag operations that have a meaning -/

/-- The guard passes its continuation on where R86 gives the operands it tests a meaning. -/
theorem State.guardAlias_of_runs {operands : List RegIdx} {vf : Bool} {k : Result}
    (h : FlagOpRuns s operands) (hvf : vf = true → flagReg ∈ operands) : s.guardAlias vf k = k := by
  rw [State.guardAlias_eq, if_neg]
  rintro ⟨hrefuse, hv⟩
  obtain hsampled | hnot := h
  · rw [hsampled] at hrefuse
    exact nomatch hrefuse
  · exact hnot (hvf hv)

/-- A flag operation leaves its result in V[x] and, unless x = F, its flag in VF; it changes nothing else. -/
theorem exec_flagOp {c : Bool} {b : Byte} {n m : Nat} (h : exec i s = .next (s.setFlagThen x c b))
    (hb : b.toNat = n) (hc : (flagByte c).toNat = m) :
    ∃ t, exec i s = .next t ∧ (t.getV x).toNat = n ∧ (x ≠ 0xF → (t.getV 0xF).toNat = m) ∧
      ChangesOnly s t fun p => p = .reg x ∨ p = .reg 0xF := by
  refine ⟨_, h, ?_, fun hx => ?_, ?_⟩
  · rw [State.getV_setFlagThen, if_pos rfl, hb]
  · rw [State.getV_setFlagThen, if_neg hx.symm, flagReg, if_pos rfl, hc]
  · exact ((s.setFlagThen_touches x c b).mono fun _ => Or.symm).parts

theorem flagReg_mem_of_beq_or (hv : (x == flagReg || y == flagReg) = true) : flagReg ∈ [x, y] := by
  simpa [eq_comm (a := flagReg)] using hv

theorem flagReg_mem_of_beq (hv : (x == flagReg) = true) : flagReg ∈ [x] :=
  List.mem_singleton.2 (beq_iff_eq.1 hv).symm

theorem exec_addReg_of_runs (h : FlagOpRuns s [x, y]) : exec (.addReg x y) s =
    .next (s.setFlagThen x (carryOut (s.getV x) (s.getV y)) (s.getV x + s.getV y)) :=
  State.guardAlias_of_runs h flagReg_mem_of_beq_or

theorem exec_subReg_of_runs (h : FlagOpRuns s [x, y]) : exec (.subReg x y) s =
    .next (s.setFlagThen x (noBorrow (s.getV x) (s.getV y)) (s.getV x - s.getV y)) :=
  State.guardAlias_of_runs h flagReg_mem_of_beq_or

theorem exec_subnReg_of_runs (h : FlagOpRuns s [x, y]) : exec (.subnReg x y) s =
    .next (s.setFlagThen x (noBorrow (s.getV y) (s.getV x)) (s.getV y - s.getV x)) :=
  State.guardAlias_of_runs h flagReg_mem_of_beq_or

theorem exec_shr_of_runs (y : RegIdx) (h : FlagOpRuns s [x]) : exec (.shr x y) s =
    .next (s.setFlagThen x (shiftedOutRight (s.getV x)) (s.getV x >>> 1)) :=
  State.guardAlias_of_runs h flagReg_mem_of_beq

theorem exec_shl_of_runs (y : RegIdx) (h : FlagOpRuns s [x]) : exec (.shl x y) s =
    .next (s.setFlagThen x (shiftedOutLeft (s.getV x)) (s.getV x <<< 1)) :=
  State.guardAlias_of_runs h flagReg_mem_of_beq

/-- Settles O40: the result is the sum of two bytes and the flag is the carry. -/
theorem addRegistersSetsCarry : Obligations.AddRegistersSetsCarry := fun _ _ _ h =>
  exec_flagOp (exec_addReg_of_runs h) (BitVec.toNat_add _ _) (flagByte_carryOut_toNat _ _)

/-- Settles O41: the result is a difference of two bytes and the flag compares them the same way round. -/
theorem subtractionsSetNotBorrow : Obligations.SubtractionsSetNotBorrow := by
  intro x y s h
  simp only [← byte_sub_toNat, Int.natCast_inj]
  exact ⟨exec_flagOp (exec_subReg_of_runs h) rfl (flagByte_noBorrow_toNat _ _),
    exec_flagOp (exec_subnReg_of_runs h) rfl (flagByte_noBorrow_toNat _ _)⟩

/-- Settles O42: the result is V[x] shifted and the flag is the bit shifted out, whatever y is. -/
theorem shiftsCaptureTheLostBit : Obligations.ShiftsCaptureTheLostBit := fun _ y _ h =>
  ⟨exec_flagOp (exec_shr_of_runs y h) (byte_shiftRight_one_toNat _) (flagByte_shiftedOutRight_toNat _),
    exec_flagOp (exec_shl_of_runs y h) (byte_shiftLeft_one_toNat _) (flagByte_shiftedOutLeft_toNat _)⟩

end Sys2Proof.Machine

/-! ## The random byte (44_random.md R98) -/

namespace Sys2Proof.Machine

theorem byte_and_toNat_le_right (a b : Byte) : (a &&& b).toNat ≤ b.toNat := by
  rw [BitVec.toNat_and]
  exact Nat.and_le_right

/-- Settles O43: the value written is a draw under the mask, whatever byte the draw gives. -/
theorem rndStoresAMaskedDraw : Obligations.RndStoresAMaskedDraw := by
  intro x kk s
  have hx := s.takeDraw.getV_setV_self x (Config.freeDraw s.draws &&& kk)
  refine ⟨_, rfl, hx, ?range, ?zero, rfl, (exec_touches (i := .rnd x kk) rfl).parts⟩
  case range =>
    rw [hx]
    exact byte_and_toNat_le_right _ kk
  case zero =>
    rintro rfl
    exact hx.trans BitVec.and_zero

end Sys2Proof.Machine

/-! ## The display (45_display.md) -/

namespace Sys2Proof.Machine

/-! ### A drawing step inverts a set of pixels -/

/-- Exactly the pixels in `P` are inverted, and a collision is added when one of them was on (R100). -/
structure Inverts (P : Fin 64 → Fin 32 → Prop) (acc acc' : FrameBuffer × Bool) : Prop where
  covered {x y} : P x y → pixelAt acc'.1 x y = !pixelAt acc.1 x y
  uncovered {x y} : ¬ P x y → pixelAt acc'.1 x y = pixelAt acc.1 x y
  collides : acc'.2 = true ↔ acc.2 = true ∨ ∃ x y, P x y ∧ pixelAt acc.1 x y = true

section

variable {P Q : Fin 64 → Fin 32 → Prop} {acc acc' acc'' : FrameBuffer × Bool}

theorem Inverts.congr (h : Inverts P acc acc') (hPQ : ∀ x y, Q x y ↔ P x y) : Inverts Q acc acc' := by
  obtain rfl : Q = P := funext₂ fun x y => propext (hPQ x y)
  exact h

theorem inverts_none (acc : FrameBuffer × Bool) : Inverts (fun _ _ => False) acc acc where
  covered := False.elim
  uncovered _ := rfl
  collides := by simp

/-- Two drawing steps that share no pixel invert the pixels of both (R102). -/
theorem Inverts.trans (h : Inverts P acc acc') (h' : Inverts Q acc' acc'')
    (hdisjoint : ∀ x y, P x y → ¬ Q x y) : Inverts (fun x y => P x y ∨ Q x y) acc acc'' where
  covered := by
    rintro x y (hP | hQ)
    · rw [h'.uncovered (hdisjoint x y hP), h.covered hP]
    · rw [h'.covered hQ, h.uncovered fun hP => hdisjoint x y hP hQ]
  uncovered hPQ := by
    rw [not_or] at hPQ
    rw [h'.uncovered hPQ.2, h.uncovered hPQ.1]
  collides := by
    have hQ (x y) : (Q x y ∧ pixelAt acc'.1 x y = true) ↔ (Q x y ∧ pixelAt acc.1 x y = true) :=
      and_congr_right fun hQ => by rw [h.uncovered fun hP => hdisjoint x y hP hQ]
    simp only [h'.collides, h.collides, hQ, or_and_right, exists_or, or_assoc]

theorem plot_inverts (x : Fin 64) (y : Fin 32) (acc : FrameBuffer × Bool) :
    Inverts (fun x' y' => x' = x ∧ y' = y) acc (plot x y acc) where
  covered h := by
    obtain ⟨rfl, rfl⟩ := h
    simp [plot, pixelAt_togglePixel]
  uncovered h := by rw [plot, pixelAt_togglePixel, if_neg h]
  collides := by simp [plot]

end

/-! ### The pixels of a row and of a sprite -/

section

variable {byte ox oy : Byte} {b c count r k : Nat} {bytes : List Byte} {x : Fin 64} {y y' : Fin 32}

/-- The pixels that the set bits `b`, ..., `b + count - 1` of a byte drawn in row `y` fall on. -/
def BitsCover (byte ox : Byte) (y : Fin 32) (b count : Nat) (x : Fin 64) (y' : Fin 32) : Prop :=
  y' = y ∧ ∃ k < count, byte.getLsbD (7 - (b + k)) = true ∧ x = spriteColumn ox (b + k)

/-- The pixels that the set bits of a sprite's rows fall on, its first byte in row `r`. -/
def RowsCover (ox oy : Byte) (r : Nat) (bytes : List Byte) (x : Fin 64) (y : Fin 32) : Prop :=
  ∃ k, ∃ h : k < bytes.length, BitsCover bytes[k] ox (spriteRow oy (r + k)) 0 8 x y

/-- Eight consecutive columns are different modulo 64 (R102). -/
theorem spriteColumn_inj (hb : b < 8) (hc : c < 8) (h : spriteColumn ox b = spriteColumn ox c) : b = c := by
  have := Fin.val_eq_of_eq h
  simp only [spriteColumn] at this
  omega

/-- Thirty-two consecutive rows are different modulo 32 (R102). -/
theorem spriteRow_inj (hr : r < 32) (hk : k < 32) (h : spriteRow oy r = spriteRow oy k) : r = k := by
  have := Fin.val_eq_of_eq h
  simp only [spriteRow] at this
  omega

theorem bitsCover_succ : BitsCover byte ox y b (count + 1) x y' ↔
    (byte.getLsbD (7 - b) = true ∧ x = spriteColumn ox b ∧ y' = y) ∨
      BitsCover byte ox y (b + 1) count x y' := by
  simp only [BitsCover, Nat.exists_lt_succ_left, Nat.add_assoc, Nat.add_comm 1, Nat.add_zero]
  tauto

theorem rowsCover_cons : RowsCover ox oy r (byte :: bytes) x y ↔
    BitsCover byte ox (spriteRow oy r) 0 8 x y ∨ RowsCover ox oy (r + 1) bytes x y := by
  rw [RowsCover, ← Nat.or_exists_add_one]
  simp [RowsCover, Nat.add_assoc, Nat.add_comm 1]

theorem rowsCover_zero_iff : RowsCover ox oy 0 bytes x y ↔ SpriteCovers bytes ox oy x y := by
  simp only [RowsCover, BitsCover, SpriteCovers, Fin.ext_iff, spriteColumn, spriteRow, Nat.zero_add]
  constructor
  · rintro ⟨r, h, hy, b, hb, hbit, hx⟩
    exact ⟨r, b, h, hb, hbit, hx, hy⟩
  · rintro ⟨r, b, h, hb, hbit, hx, hy⟩
    exact ⟨r, h, hy, b, hb, hbit, hx⟩

/-! ### The rasterizer -/

theorem drawBits_inverts (acc : FrameBuffer × Bool) (h : b + count ≤ 8) :
    Inverts (BitsCover byte ox y b count) acc (drawBits byte ox y b count acc) := by
  induction count generalizing b acc with
  | zero => exact (inverts_none acc).congr fun _ _ => by simp [BitsCover]
  | succ count ih =>
    have hbit : Inverts (fun x y' => byte.getLsbD (7 - b) = true ∧ x = spriteColumn ox b ∧ y' = y) acc
        (if byte.getLsbD (7 - b) then plot (spriteColumn ox b) y acc else acc) := by
      split
      next hset => exact (plot_inverts _ y acc).congr fun _ _ => and_iff_right hset
      next hclear => exact (inverts_none acc).congr fun _ _ => iff_of_false (hclear ·.1) id
    refine (hbit.trans (ih _ (by omega)) ?_).congr fun _ _ => bitsCover_succ
    rintro _ _ ⟨-, rfl, -⟩ ⟨-, k, hk, -, hcol⟩
    have := spriteColumn_inj (by omega) (by omega) hcol
    omega

theorem drawRows_inverts (acc : FrameBuffer × Bool) (h : r + bytes.length ≤ 32) :
    Inverts (RowsCover ox oy r bytes) acc (drawRows ox oy r bytes acc) := by
  induction bytes generalizing r acc with
  | nil => exact (inverts_none acc).congr fun _ _ => by simp [RowsCover]
  | cons byte bytes ih =>
    rw [List.length_cons] at h
    refine ((drawBits_inverts acc (by omega)).trans (ih _ (by omega)) ?_).congr fun _ _ => rowsCover_cons
    rintro _ _ ⟨rfl, -⟩ ⟨k, hk, hrow, -⟩
    have := spriteRow_inj (by omega) (by omega) hrow
    omega

theorem drawSprite_inverts (fb : FrameBuffer) (ox oy : Byte) (h : bytes.length ≤ 15) :
    Inverts (SpriteCovers bytes ox oy) (fb, false) (drawSprite fb bytes ox oy) :=
  (drawRows_inverts (fb, false) (by omega)).congr fun _ _ => rowsCover_zero_iff.symm

theorem drawSprite_collides_iff (fb : FrameBuffer) (ox oy : Byte) (h : bytes.length ≤ 15) :
    (drawSprite fb bytes ox oy).2 = true ↔
      ∃ x y, SpriteCovers bytes ox oy x y ∧ pixelAt fb x y = true := by
  simp [(drawSprite_inverts fb ox oy h).collides]

end

/-- Settles O45: no two set bits of a sprite fall on one pixel, so the loop inverts each once. -/
theorem rasterizerXorsThePixelsItCovers : Obligations.RasterizerXorsThePixelsItCovers :=
  fun fb _ ox oy h =>
    have hdraw := drawSprite_inverts fb ox oy h
    ⟨fun _ _ => ⟨hdraw.covered, hdraw.uncovered⟩, drawSprite_collides_iff fb ox oy h⟩

/-! ### Drawing twice -/

section

variable {bytes : List Byte}

theorem frameBuffer_ext {fb fb' : FrameBuffer} (h : ∀ x y, pixelAt fb x y = pixelAt fb' x y) : fb = fb' :=
  Vector.ext fun x hx => Vector.ext fun y hy => h ⟨x, hx⟩ ⟨y, hy⟩

theorem drawSprite_twice (fb : FrameBuffer) (ox oy : Byte) (h : bytes.length ≤ 15) :
    (drawSprite (drawSprite fb bytes ox oy).1 bytes ox oy).1 = fb := by
  have h₁ := drawSprite_inverts fb ox oy h
  have h₂ := drawSprite_inverts (drawSprite fb bytes ox oy).1 ox oy h
  refine frameBuffer_ext fun x y => ?_
  by_cases hcov : SpriteCovers bytes ox oy x y
  · rw [h₂.covered hcov, h₁.covered hcov, Bool.not_not]
  · rw [h₂.uncovered hcov, h₁.uncovered hcov]

/-- A covered pixel is on before the first draw or, inverted by it, before the second. -/
theorem drawSprite_twice_collides_iff (fb : FrameBuffer) (ox oy : Byte) (h : bytes.length ≤ 15) :
    ((drawSprite fb bytes ox oy).2 = true ∨
        (drawSprite (drawSprite fb bytes ox oy).1 bytes ox oy).2 = true) ↔
      ∃ x y, SpriteCovers bytes ox oy x y := by
  rw [drawSprite_collides_iff _ ox oy h, drawSprite_collides_iff _ ox oy h]
  constructor
  · rintro (⟨x, y, hcov, -⟩ | ⟨x, y, hcov, -⟩) <;> exact ⟨x, y, hcov⟩
  · rintro ⟨x, y, hcov⟩
    cases hpix : pixelAt fb x y with
    | true => exact .inl ⟨x, y, hcov, hpix⟩
    | false =>
      refine .inr ⟨x, y, hcov, ?_⟩
      rw [(drawSprite_inverts fb ox oy h).covered hcov, hpix, Bool.not_false]

theorem byte_ne_zero_iff {byte : Byte} : byte ≠ 0 ↔ ∃ b < 8, byte.getLsbD (7 - b) = true := by
  constructor
  · intro hne
    by_contra hclear
    refine hne (BitVec.eq_of_getLsbD_eq fun k hk => ?_)
    have hbit : ¬ byte.getLsbD (7 - (7 - k)) = true := fun hset => hclear ⟨7 - k, by omega, hset⟩
    rw [Nat.sub_sub_self (by omega)] at hbit
    simpa using hbit
  · rintro ⟨b, -, hset⟩ rfl
    simp at hset

theorem exists_spriteCovers_iff {ox oy : Byte} :
    (∃ x y, SpriteCovers bytes ox oy x y) ↔ ∃ byte ∈ bytes, byte ≠ 0 := by
  simp only [byte_ne_zero_iff, List.mem_iff_getElem]
  constructor
  · rintro ⟨x, y, r, b, hr, hb, hset, -, -⟩
    exact ⟨_, ⟨r, hr, rfl⟩, b, hb, hset⟩
  · rintro ⟨_, ⟨r, hr, rfl⟩, b, hb, hset⟩
    exact ⟨spriteColumn ox b, spriteRow oy r, r, b, hr, hb, hset, rfl, rfl⟩

end

/-- Settles O46: both draws invert the same pixels, and there is one unless every byte is 0. -/
theorem drawingTwiceRestoresTheScreen : Obligations.DrawingTwiceRestoresTheScreen := fun fb _ ox oy h =>
  ⟨drawSprite_twice fb ox oy h, (drawSprite_twice_collides_iff fb ox oy h).trans exists_spriteCovers_iff⟩

/-! ### CLS and DRW -/

/-- Settles O44: the new screen is the blank one. -/
theorem clsClearsEveryPixel : Obligations.ClsClearsEveryPixel := fun _ =>
  ⟨_, rfl, pixelAt_blankScreen, rfl, ((exec_touches (i := .cls) rfl).mono fun _ => Or.symm).parts⟩

/-- The bytes of a transfer are the reads at rising addresses (20_memory.md R48). -/
theorem State.bytesAt_eq_map_range (s : State) (a n : Nat) :
    s.bytesAt a n = (List.range n).map fun k => s.byteAt (a + k) :=
  List.ext_getElem (by simp) fun k _ _ => by simp [State.getElem_bytesAt]

/-- DRW with its bytes in memory, or with none: the flag, the screen and the draw-request flag (R101). -/
theorem exec_drw_of_inBounds {s : State} {x y : RegIdx} {n : BitVec 4} {drawn : FrameBuffer × Bool}
    (hroom : n.toNat = 0 ∨ s.i.toNat + n.toNat - 1 ≤ 0xFFF)
    (hdrawn : drawSprite s.fb (s.bytesAt s.i.toNat n.toNat) (s.getV x) (s.getV y) = drawn) :
    exec (.drw x y n) s =
      .next (((s.setV flagReg (flagByte drawn.2)).setFb drawn.1).setDrawRequest true) := by
  subst hdrawn
  exact checkBounds_next.2 ⟨hroom, rfl⟩

/-- Settles O47: the error is the bound's, and the sprite is drawn from the state before VF is written. -/
theorem drwDrawsTheSpriteAtI : Obligations.DrwDrawsTheSpriteAtI := by
  rintro x y n s
  refine ⟨fun ⟨hn, hlast⟩ => exec_fault_iff.2 ⟨hn.ne', hlast, rfl⟩, ?_⟩
  rintro hroom _ rfl
  rw [← State.bytesAt_eq_map_range]
  have hexec := exec_drw_of_inBounds (x := x) (y := y) hroom rfl
  refine ⟨_, hexec, rfl, ?flag, rfl, ?frame⟩
  case flag => exact s.getV_setV_self flagReg _
  case frame =>
    refine ((exec_touches (i := .drw x y n) hexec).mono fun p => ?_).parts
    rintro ((hp | hp) | hp)
    · exact .inl hp
    · exact .inr (.inr hp)
    · exact .inr (.inl hp)

end Sys2Proof.Machine

/-! ## The index register and memory (46_index_memory.md) -/

namespace Sys2Proof.Machine

variable {s : State} {i : Instr} {x : RegIdx}

/-! ### The value written to the index register -/

/-- A byte added to a 16-bit value counts with its unsigned value (R8). -/
theorem wordOfByte_toNat (b : Byte) : (wordOfByte b).toNat = b.toNat :=
  BitVec.toNat_setWidth_of_le (by decide)

/-- Every glyph address fits in I, whatever FONT_BASE is (R106). -/
theorem glyphAddr_toNat (p : Config.Params) (b : Byte) :
    (glyphAddr p b).toNat = p.fontBase.val + 5 * (b.toNat % 16) := by
  have hnibble : (b &&& 0xF).toNat = b.toNat % 16 :=
    (BitVec.toNat_and b 0xF).trans (Nat.and_two_pow_sub_one_eq_mod b.toNat 4)
  have hbase : p.fontBase.val ≤ 0x200 - 80 := Nat.le_of_lt_succ p.fontBase.isLt
  rw [glyphAddr, hnibble, BitVec.toNat_ofNat, Nat.mod_eq_of_lt (by omega)]

theorem exec_setsIndex {w : Word} {n : Nat} (h : exec i s = .next (s.setI w)) (hw : w.toNat = n) :
    ∃ t, exec i s = .next t ∧ t.i.toNat = n ∧ ChangesOnly s t fun p => p = .index :=
  ⟨_, h, hw, (s.setI_touches w).parts⟩

/-! ### Bytes stored from I on -/

/-- The byte at offset k of a store reads back as byte k of its list (20_memory.md R48). -/
theorem State.byteAt_storeBytes_add (s : State) (a : Nat) {k : Nat} {bs : List Byte}
    (hk : k < bs.length) : (s.storeBytes a bs).byteAt (a + k) = bs[k] := by
  rw [State.byteAt_storeBytes, dif_pos (by omega)]
  simp only [Nat.add_sub_cancel_left]

/-- The frame of a store, its last byte at offset n. -/
theorem State.storeBytes_changesOnly (s : State) (a : Nat) {n : Nat} {bs : List Byte}
    (hlen : bs.length = n + 1) :
    ChangesOnly s (s.storeBytes a bs) fun p => ∃ b, p = .byte b ∧ a ≤ b ∧ b ≤ a + n :=
  ((s.storeBytes_touches a bs).mono fun _ ⟨b, hp, hfirst, hlast⟩ =>
    ⟨b, hp, hfirst, by omega⟩).parts

@[simp] theorem length_bcdDigits (b : Byte) : (bcdDigits b).length = 3 := rfl

/-- Every decimal digit of a byte is itself a byte (R107). -/
theorem bcdDigits_toNat (b : Byte) :
    (bcdDigits b)[0].toNat = b.toNat / 100 ∧ (bcdDigits b)[1].toNat = b.toNat / 10 % 10 ∧
      (bcdDigits b)[2].toNat = b.toNat % 10 := by
  have hkept {n : Nat} (h : n ≤ b.toNat) : (BitVec.ofNat 8 n).toNat = n :=
    Nat.mod_eq_of_lt (h.trans_lt b.isLt)
  exact ⟨hkept (by omega), hkept (by omega), hkept (by omega)⟩

theorem exec_ldB_next (h : s.i.toNat + 2 ≤ 0xFFF) :
    exec (.ldB x) s = .next (s.storeBytes s.i.toNat (bcdDigits (s.getV x))) :=
  checkBounds_next.2 ⟨.inr h, rfl⟩

/-! ### Registers loaded from I on -/

theorem exec_ldVxMem_next (h : s.i.toNat + x.toNat ≤ 0xFFF) :
    exec (.ldVxMem x) s = .next (s.loadRegs 0 (s.bytesAt s.i.toNat (x.toNat + 1))) :=
  checkBounds_next.2 ⟨.inr h, rfl⟩

/-- Loading from register 0 on gives register r the byte at offset r (R109). -/
theorem State.getV_loadRegs_bytesAt (s : State) (a : Nat) {n : Nat} {r : RegIdx} (hn : n ≤ 16)
    (hr : r.toNat < n) : (s.loadRegs 0 (s.bytesAt a n)).getV r = s.byteAt (a + r.toNat) := by
  have hlen : (s.bytesAt a n).length = n := s.length_bytesAt a n
  rw [State.getV_loadRegs _ _ _ _ (by omega), dif_pos (by omega), State.getElem_bytesAt, Nat.sub_zero]

/-! ### The obligations -/

/-- Settles O48: the 12 bits of nnn are kept whole in I. -/
theorem ldISetsTheIndex : Obligations.LdISetsTheIndex := fun nnn _ =>
  exec_setsIndex rfl (addrOperand_toNat nnn)

/-- Settles O49: the sum is one of 16-bit words. -/
theorem addIWrapsAtSixteenBits : Obligations.AddIWrapsAtSixteenBits := fun x s =>
  exec_setsIndex rfl ((BitVec.toNat_add ..).trans (by rw [wordOfByte_toNat]))

/-- Settles O50: the address is the one of the glyph, which fits in I. -/
theorem ldFPointsAtTheGlyph : Obligations.LdFPointsAtTheGlyph := fun x s =>
  exec_setsIndex rfl (glyphAddr_toNat s.params (s.getV x))

/-- Settles O51: the error is the bound's, and the bytes stored are the three digits. -/
theorem ldBStoresTheDecimalDigits : Obligations.LdBStoresTheDecimalDigits := by
  intro x s
  refine ⟨fun hout => exec_fault_iff.2 ⟨hout, rfl⟩, fun hroom => ?_⟩
  have hdigit {k : Nat} (hk : k < (bcdDigits (s.getV x)).length) :=
    congrArg BitVec.toNat (s.byteAt_storeBytes_add s.i.toNat hk)
  obtain ⟨hundreds, tens, ones⟩ := bcdDigits_toNat (s.getV x)
  exact ⟨_, exec_ldB_next hroom, (hdigit (k := 0) _).trans hundreds, (hdigit (k := 1) _).trans tens,
    (hdigit (k := 2) _).trans ones, s.storeBytes_changesOnly _ (length_bcdDigits _)⟩

/-- Settles O52: the error is the bound's, and byte r of those stored is V[r]. -/
theorem registerDumpIsInclusive : Obligations.RegisterDumpIsInclusive := by
  intro x s
  refine ⟨fun hout => exec_fault_iff.2 ⟨hout, rfl⟩, fun hroom =>
    ⟨_, exec_ldMemVx_next hroom, fun r hr => ?_, s.storeBytes_changesOnly _ (s.length_dumpRegs _)⟩⟩
  have hlen : r.toNat < (s.dumpRegs (x.toNat + 1)).length := by
    rw [State.length_dumpRegs]; omega
  rw [s.byteAt_storeBytes_add _ hlen, State.getElem_dumpRegs, BitVec.ofNat_toNat, BitVec.setWidth_eq]

/-- Settles O53: the error is the bound's, and V[r] is byte r of those loaded. -/
theorem registerLoadIsInclusive : Obligations.RegisterLoadIsInclusive := by
  intro x s
  refine ⟨fun hout => exec_fault_iff.2 ⟨hout, rfl⟩, fun hroom => ?_⟩
  have hexec := exec_ldVxMem_next hroom
  refine ⟨_, hexec, fun r hr => s.getV_loadRegs_bytesAt _ x.isLt (Nat.lt_succ_of_le hr), ?_⟩
  exact ((exec_touches hexec).mono fun _ ⟨r, hp, hr⟩ => ⟨r, hp, Nat.le_of_lt_succ hr⟩).parts

end Sys2Proof.Machine

/-! ## The timers and the key-wait (47_timers_keys.md, 60_exceptions.md R122 to R131) -/

namespace Sys2Proof.Machine

variable {s : State} {op : HostOp}

/-! ### The tick -/

theorem State.tick_touches (s : State) :
    Touches s s.tick fun p => p = .delayTimer ∨ p = .soundTimer where
  parts p hp := by
    cases p with
    | delayTimer => exact absurd (.inl rfl) hp
    | soundTimer => exact absurd (.inr rfl) hp
    | _ => rfl
  cells _ := rfl

theorem State.beepNow_iff (s : State) : s.beepNow = true ↔ s.st.toNat = 1 := by
  rw [State.beepNow, decide_eq_true_iff, ← BitVec.toNat_inj]
  rfl

/-- Settles O13: a step that returns Ok has waited, or has run its instruction and then ticked. -/
theorem successfulStepTicksTheTimers : Obligations.SuccessfulStepTicksTheTimers := by
  intro s s' beep h
  obtain ⟨hw, rfl, rfl⟩ | ⟨hw, -, i, t, hd, he, rfl, rfl⟩ := stepCall_ok h
  · exact ⟨fun _ => ⟨rfl, rfl⟩, fun hrun => absurd (hw.symm.trans hrun) (by decide)⟩
  · exact ⟨fun hwait => absurd (hw.symm.trans hwait) (by decide),
      fun _ => ⟨i, t, hd, he, tickDown_toNat t.dt, tickDown_toNat t.st, t.beepNow_iff,
        t.tick_touches.parts⟩⟩

/-- Settles O54: the tick writes no register. -/
theorem ldVxDtReadsTheDelayTimer : Obligations.LdVxDtReadsTheDelayTimer := by
  intro x s
  have hx : (s.setV x s.dt).getV x = s.dt := s.getV_setV_self x s.dt
  exact ⟨_, rfl, hx, hx, (s.setV_touches x s.dt).parts⟩

/-- Settles O55: the tick counts down the value that was just loaded. -/
theorem timerLoadsAreTickedInTheSameStep : Obligations.TimerLoadsAreTickedInTheSameStep := fun x s =>
  ⟨⟨_, rfl, rfl, tickDown_toNat (s.getV x), (s.setDt_touches _).parts⟩,
    ⟨_, rfl, rfl, tickDown_toNat (s.getV x), State.beepNow_iff _, (s.setSt_touches _).parts⟩⟩

/-! ### The host's operations on the keys and the flags -/

theorem State.setKeys_touches (s : State) (ks : Vector Bool 16) :
    Touches s (s.setKeys ks) fun p => ∃ k, p = .key k where
  parts p hp := by cases p with | key k => exact absurd ⟨k, rfl⟩ hp | _ => rfl
  cells _ := rfl

/-- Settles O4: each operation is one field's update, or the state as it is. -/
theorem hostOperationsTouchOnlyTheirField : Obligations.HostOperationsTouchOnlyTheirField := fun ks s =>
  ⟨⟨_, rfl, rfl, (s.setKeys_touches ks).parts⟩, ⟨_, rfl, rfl, (s.setDrawRequest_touches false).parts⟩,
    rfl, rfl, rfl⟩

theorem hostTurn_supplyKey_accepted {k : Nat} (hw : s.waiting = true) (hk : k ≤ 15) :
    hostTurn (.supplyKey k) s =
      ⟨(s.setV s.waitReg (BitVec.ofNat 8 k)).setWaiting false, .done⟩ := by
  simp [hostTurn, hostSupplyKey, keyWellFormed, hw, hk]

theorem hostTurn_supplyKey_rejected {k : Nat} (h : s.waiting = false ∨ 15 < k) :
    hostTurn (.supplyKey k) s = ⟨s, .rejected⟩ := by
  rw [hostTurn, hostSupplyKey, if_neg]
  obtain hw | hk := h
  · simp [hw]
  · simp [keyWellFormed, hk]

/-- A key code is kept whole in the register that supply_key writes (R128). -/
theorem getV_supplied_toNat (s : State) (x : RegIdx) {k : Nat} (hk : k ≤ 15) :
    ((s.setV x (BitVec.ofNat 8 k)).getV x).toNat = k := by
  rw [State.getV_setV_self, BitVec.toNat_ofNat, Nat.mod_eq_of_lt (by omega)]

/-- Settles O3: the accepted key writes the register and the flag, and a rejection writes nothing. -/
theorem supplyKeyEndsAPendingWait : Obligations.SupplyKeyEndsAPendingWait := fun _ s =>
  ⟨fun hw hk => ⟨_, hostTurn_supplyKey_accepted hw hk, getV_supplied_toNat s s.waitReg hk, rfl,
    ((s.setV_touches _ _).trans (State.setWaiting_touches _ _)).parts⟩, hostTurn_supplyKey_rejected⟩

/-! ### The wait -/

/-- A step of a waiting core answers Ok without a beep and changes nothing (40_step_cycle.md R65). -/
theorem hostTurn_step_waiting (hw : s.waiting = true) :
    hostTurn .step s = ⟨s, .stepOk false⟩ ∧ step s = .next s :=
  hostTurn_step_ok (stepCall_waiting hw)

/-- Settles O56: Fx0A sets the flag and the register, which the tick keeps for the step and the key. -/
theorem ldVxKSuspendsUntilTheKey : Obligations.LdVxKSuspendsUntilTheKey := by
  intro x s
  have hframe := (exec_touches (i := .ldVxK x) (s := s) rfl).parts
  refine ⟨_, rfl, rfl, rfl, hframe, (hostTurn_step_waiting rfl).2, fun k hk => ?_⟩
  exact ⟨_, hostTurn_supplyKey_accepted rfl hk, getV_supplied_toNat _ x hk, rfl, rfl⟩

/-- Only Fx0A writes the flag, and a step that fails or is refused keeps it (log entry 43). -/
theorem hostTurn_step_enters_wait (hw : s.waiting = false)
    (h : (hostTurn .step s).after.waiting = true) :
    ∃ x, decode s.params.strictLowNibble s.fetchWord = .ok (.ldVxK x) := by
  cases hc : stepCall s with
  | ok beep s' =>
    rw [(hostTurn_step_ok hc).1] at h
    obtain ⟨-, rfl, -⟩ | ⟨-, -, i, t, hd, he, rfl, -⟩ := stepCall_ok hc
    · simp [hw] at h
    · obtain hwrites | hkept := exec_writes_or_keeps he .waiting
      · obtain ⟨x, rfl⟩ := writes_waiting hwrites
        exact ⟨x, hd⟩
      · have hnot : t.waiting = false := Eq.trans hkept hw
        simp [hnot] at h
  | err f s' =>
    rw [(hostTurn_step_err hc).1] at h
    obtain ⟨-, ⟨-, -, rfl⟩ | ⟨-, rfl, -⟩⟩ := stepCall_err hc <;> simp [State.errorEntry, hw] at h
  | refused r =>
    rw [(hostTurn_step_refused hc).1] at h
    simp [hw] at h

theorem hostTurn_loadRom_waiting (bytes : List Byte) (s : State) :
    (hostTurn (.loadRom bytes) s).after.waiting = s.waiting := by
  rw [hostTurn, hostLoadRom]
  split <;> rfl

theorem hostTurn_enters_wait (hw : s.waiting = false) (h : (hostTurn op s).after.waiting = true) :
    op = .step ∧ ∃ x, decode s.params.strictLowNibble s.fetchWord = .ok (.ldVxK x) := by
  cases op with
  | step => exact ⟨rfl, hostTurn_step_enters_wait hw h⟩
  | construct => exact absurd h Bool.false_ne_true
  | supplyKey k => simp [hostTurn_supplyKey_rejected (.inl hw), hw] at h
  | loadRom bytes => simp [hostTurn_loadRom_waiting, hw] at h
  | setKeypad | acknowledgeDraw | readFrameBuffer | readDrawRequest | readWaiting =>
    exact absurd (hw.symm.trans h) Bool.false_ne_true

theorem hostTurn_leaves_wait (hw : s.waiting = true) (h : (hostTurn op s).after.waiting = false) :
    op = .construct ∨ ∃ k, k ≤ 15 ∧ op = .supplyKey k := by
  cases op with
  | construct => exact .inl rfl
  | supplyKey k =>
    refine .inr ⟨k, Nat.le_of_not_lt fun hk => ?_, rfl⟩
    simp [hostTurn_supplyKey_rejected (.inr hk), hw] at h
  | step => simp [(hostTurn_step_waiting hw).1, hw] at h
  | loadRom bytes => simp [hostTurn_loadRom_waiting, hw] at h
  | setKeypad | acknowledgeDraw | readFrameBuffer | readDrawRequest | readWaiting =>
    exact absurd (h.symm.trans hw) Bool.false_ne_true

/-- Settles O21: one lemma for each of the two transitions, and the step of a waiting core. -/
theorem keyWaitIsATwoStateMachine : Obligations.KeyWaitIsATwoStateMachine := by
  refine fun op s => ⟨hostTurn_enters_wait, hostTurn_leaves_wait, ?_⟩
  rintro hw rfl
  exact congrArg HostTurn.after (hostTurn_step_waiting hw).1

end Sys2Proof.Machine

/-! ## The causes of a BoundsError (60_exceptions.md R116) -/

namespace Sys2Proof.Machine

variable {s : State} {i : Instr} {f : Fault}

theorem stepCall_err_of_step_fault (h : step s = .fault f) : ∃ t, stepCall s = .err f t := by
  cases hc : stepCall s with
  | err g t =>
    rw [(hostTurn_step_err hc).2] at h
    obtain rfl := Host.Outcome.fault.inj h
    exact ⟨t, rfl⟩
  | ok beep t => simp [(hostTurn_step_ok hc).2] at h
  | refused r => simp [(hostTurn_step_refused hc).2] at h

theorem step_fetchFault_iff :
    step s = .fault (.boundsError .fetch) ↔ s.waiting = false ∧ 0xFFF < s.pc.toNat + 1 := by
  refine ⟨fun h => ?_, fun ⟨hw, hpc⟩ => step_fetchFault hw hpc⟩
  obtain ⟨t, hc⟩ := stepCall_err_of_step_fault h
  obtain ⟨hw, ⟨hb, -, -⟩ | ⟨-, -, ⟨hdecode, -⟩ | ⟨i, -, he⟩⟩⟩ := stepCall_err hc
  · have hpc := mt s.fetchInBounds_iff.2 (Bool.eq_false_iff.1 hb)
    exact ⟨hw, Nat.lt_of_not_le hpc⟩
  · exact nomatch hdecode
  · exact absurd he (exec_ne_fetch_fault i _)

/-- DecodeError is the dispatch's own: no instruction raises it (R115). -/
theorem exec_ne_decodeError (i : Instr) (s : State) : exec i s ≠ .fault .decodeError := by
  rw [ne_eq, exec_fault_iff]
  cases i <;> simp [raises]

/-- Settles O15: an instruction has at most one row of R116, which is its entry in `raises`. -/
theorem boundsErrorsHaveExactlyTheListedCauses : Obligations.BoundsErrorsHaveExactlyTheListedCauses := by
  refine ⟨fun i s c => ?_, exec_ne_decodeError, fun s => step_fetchFault_iff⟩
  rw [exec_fault_iff]
  cases i with
  | ret | call | skp | sknp | ldB | ldMemVx | ldVxMem => simp [raises, and_comm]
  | drw => simp [raises, Nat.pos_iff_ne_zero, and_comm, and_left_comm]
  | _ => simp [raises]

end Sys2Proof.Machine

/-! ## Loading a ROM, and the self-jump (70_reset_and_hazards.md R135, R143) -/

namespace Sys2Proof.Machine

variable {s t : State} {bytes : List Byte} {nnn : Addr12}

theorem romWellFormed_iff : romWellFormed bytes = true ↔ bytes.length ≤ 3584 := decide_eq_true_iff

/-- Settles O2: an accepted ROM is one store at 0x200. -/
theorem loadRomWritesTheRomOrNothing : Obligations.LoadRomWritesTheRomOrNothing := by
  refine fun bytes s => ⟨fun hlong => ?_, fun hfits => ?_⟩
  · exact if_neg (mt romWellFormed_iff.1 (Nat.not_le_of_lt hlong))
  · exact ⟨_, if_pos (romWellFormed_iff.2 hfits), fun _ hj => s.byteAt_storeBytes_add 0x200 hj,
      (s.storeBytes_touches 0x200 bytes).parts⟩

theorem State.atSelfJump_iff : s.atSelfJump = true ↔ s.fetchInBounds = true ∧
    ∃ nnn, decode s.params.strictLowNibble s.fetchWord = .ok (.jp nnn) ∧ addrOperand nnn = s.pc := by
  rw [State.atSelfJump, Bool.and_eq_true]
  refine and_congr_right fun _ => ?_
  split
  next nnn hd => simp [hd, ← addrOperand_toNat, BitVec.toNat_inj]
  next hnot => simpa using fun nnn hd => absurd hd (hnot nnn)

/-- Whether a state is at a self-jump depends on pc, memory and the parameters alone. -/
theorem State.atSelfJump_congr (hpc : t.pc = s.pc) (hmem : t.mem = s.mem)
    (hparams : t.params = s.params) : t.atSelfJump = s.atSelfJump := by
  simp only [State.atSelfJump, State.fetchInBounds, State.fetchWord, State.byteAt, hpc, hmem, hparams]

/-- A step at a self-jump sets pc to what it was (R75, R143). -/
theorem step_selfJump (hw : s.waiting = false) (hb : s.fetchInBounds = true)
    (hd : decode s.params.strictLowNibble s.fetchWord = .ok (.jp nnn)) (hself : addrOperand nnn = s.pc) :
    step s = .next ((s.fetched s.fetchWord).setPc s.pc).tick := by
  rw [step_runs hw hb hd, exec_jp, hself, mapNext_next]

/-- Settles O22: pc is left and then set to itself, so only opcode and the timers can differ. -/
theorem selfJumpRepeatsItself : Obligations.SelfJumpRepeatsItself := by
  intro s hw hat
  obtain ⟨hb, nnn, hd, hself⟩ := State.atSelfJump_iff.1 hat
  refine ⟨_, step_selfJump hw hb hd hself, (State.atSelfJump_congr rfl rfl rfl).trans hat, fun p hp => ?_⟩
  by_cases hpc : p = .pc
  · subst hpc; rfl
  · refine (((s.fetched_touches _).trans (State.setPc_touches _ _)).trans
      (State.tick_touches _)).parts p ?_
    tauto

end Sys2Proof.Machine
